-- ==== Sys2Proof/Word.lean ====
section
/-! DEFINITION. The two word types of the machine: bytes (DATA_WIDTH 8) and bus addresses (ADDR_WIDTH 16), rule R6. -/

namespace Sys2Proof

/-- DATA_WIDTH = 8 (R6, R70): every bus transfer, and A, X, Y, S and P. -/
abbrev Byte := BitVec 8

/-- ADDR_WIDTH = 16 (R6, R60): the program counter and every CPU bus address. -/
abbrev Word := BitVec 16

end Sys2Proof
end

