-- ==== Sys2Proof/Syntax.lean ====
section
/-! DEFINITION. Instructions: one constructor per row of spec/opcode_table.json (256 rows, R104), the mnemonics
(R105, R107) and the operand forms (the addressing modes of R101). -/

namespace Sys2Proof

/-- The 75 mnemonics of the opcode table: the 56 legal ones (R105) and the 19 illegal ones the source names (R107). -/
inductive Mnemonic
  | adc | ahx | alr | anc | and | arr | asl | axs | bcc | bcs | beq | bit | bmi | bne | bpl | brk | bvc
  | bvs | clc | cld | cli | clv | cmp | cpx | cpy | dcp | dec | dex | dey | eor | inc | inx | iny | isc
  | jmp | jsr | kil | las | lax | lda | ldx | ldy | lsr | nop | ora | pha | php | pla | plp | rla | rol
  | ror | rra | rti | rts | sax | sbc | sec | sed | sei | shx | shy | slo | sre | sta | stx | sty | tas
  | tax | tay | tsx | txa | txs | tya | xaa
deriving DecidableEq, Repr

/-- The operand forms of R101 other than Implicit (which has none), each with the bits the instruction carries:
one byte, or the 16-bit value of its two little-endian bytes (R103). -/
inductive Operand
  /-- IMM (R132): the operand value itself. -/
  | imm (b : Byte)
  /-- ZP (R133): an address in page zero. -/
  | zp (z : Byte)
  /-- ZPX (R134): a base address in page zero, indexed by X. -/
  | zpx (z : Byte)
  /-- ZPY (R135): a base address in page zero, indexed by Y. -/
  | zpy (z : Byte)
  /-- ABS (R136): an address. -/
  | abs (w : Word)
  /-- ABX (R137): a base address, indexed by X. -/
  | abx (w : Word)
  /-- ABY (R138): a base address, indexed by Y. -/
  | aby (w : Word)
  /-- IND (R139): the address of a pointer. -/
  | ind (w : Word)
  /-- IZX (R140): the base, in page zero, of a pointer's address. -/
  | izx (z : Byte)
  /-- IZY (R141): the address, in page zero, of a pointer. -/
  | izy (z : Byte)
  /-- REL (R142): a branch offset in two's complement. -/
  | rel (o : Byte)
deriving DecidableEq, Repr

/-- One constructor per row of the opcode table: the rows with operand bytes in the table's order, then the Implicit
rows (Lean's compiled code has room for 244 constructors that carry data). The name is the mnemonic with the format
(none for Implicit, `Acc` for the accumulator forms of the shifts), and with the opcode value for the illegal rows
that share mnemonic and format with another row. -/
inductive Instr
  | oraIzx (z : Byte)
  | sloIzx (z : Byte)
  | nopZp04 (z : Byte)
  | oraZp (z : Byte)
  | aslZp (z : Byte)
  | sloZp (z : Byte)
  | oraImm (b : Byte)
  | ancImm0B (b : Byte)
  | nopAbs (w : Word)
  | oraAbs (w : Word)
  | aslAbs (w : Word)
  | sloAbs (w : Word)
  | bplRel (o : Byte)
  | oraIzy (z : Byte)
  | sloIzy (z : Byte)
  | nopZpx14 (z : Byte)
  | oraZpx (z : Byte)
  | aslZpx (z : Byte)
  | sloZpx (z : Byte)
  | oraAby (w : Word)
  | sloAby (w : Word)
  | nopAbx1C (w : Word)
  | oraAbx (w : Word)
  | aslAbx (w : Word)
  | sloAbx (w : Word)
  | jsrAbs (w : Word)
  | andIzx (z : Byte)
  | rlaIzx (z : Byte)
  | bitZp (z : Byte)
  | andZp (z : Byte)
  | rolZp (z : Byte)
  | rlaZp (z : Byte)
  | andImm (b : Byte)
  | ancImm2B (b : Byte)
  | bitAbs (w : Word)
  | andAbs (w : Word)
  | rolAbs (w : Word)
  | rlaAbs (w : Word)
  | bmiRel (o : Byte)
  | andIzy (z : Byte)
  | rlaIzy (z : Byte)
  | nopZpx34 (z : Byte)
  | andZpx (z : Byte)
  | rolZpx (z : Byte)
  | rlaZpx (z : Byte)
  | andAby (w : Word)
  | rlaAby (w : Word)
  | nopAbx3C (w : Word)
  | andAbx (w : Word)
  | rolAbx (w : Word)
  | rlaAbx (w : Word)
  | eorIzx (z : Byte)
  | sreIzx (z : Byte)
  | nopZp44 (z : Byte)
  | eorZp (z : Byte)
  | lsrZp (z : Byte)
  | sreZp (z : Byte)
  | eorImm (b : Byte)
  | alrImm (b : Byte)
  | jmpAbs (w : Word)
  | eorAbs (w : Word)
  | lsrAbs (w : Word)
  | sreAbs (w : Word)
  | bvcRel (o : Byte)
  | eorIzy (z : Byte)
  | sreIzy (z : Byte)
  | nopZpx54 (z : Byte)
  | eorZpx (z : Byte)
  | lsrZpx (z : Byte)
  | sreZpx (z : Byte)
  | eorAby (w : Word)
  | sreAby (w : Word)
  | nopAbx5C (w : Word)
  | eorAbx (w : Word)
  | lsrAbx (w : Word)
  | sreAbx (w : Word)
  | adcIzx (z : Byte)
  | rraIzx (z : Byte)
  | nopZp64 (z : Byte)
  | adcZp (z : Byte)
  | rorZp (z : Byte)
  | rraZp (z : Byte)
  | adcImm (b : Byte)
  | arrImm (b : Byte)
  | jmpInd (w : Word)
  | adcAbs (w : Word)
  | rorAbs (w : Word)
  | rraAbs (w : Word)
  | bvsRel (o : Byte)
  | adcIzy (z : Byte)
  | rraIzy (z : Byte)
  | nopZpx74 (z : Byte)
  | adcZpx (z : Byte)
  | rorZpx (z : Byte)
  | rraZpx (z : Byte)
  | adcAby (w : Word)
  | rraAby (w : Word)
  | nopAbx7C (w : Word)
  | adcAbx (w : Word)
  | rorAbx (w : Word)
  | rraAbx (w : Word)
  | nopImm80 (b : Byte)
  | staIzx (z : Byte)
  | nopImm82 (b : Byte)
  | saxIzx (z : Byte)
  | styZp (z : Byte)
  | staZp (z : Byte)
  | stxZp (z : Byte)
  | saxZp (z : Byte)
  | nopImm89 (b : Byte)
  | xaaImm (b : Byte)
  | styAbs (w : Word)
  | staAbs (w : Word)
  | stxAbs (w : Word)
  | saxAbs (w : Word)
  | bccRel (o : Byte)
  | staIzy (z : Byte)
  | ahxIzy (z : Byte)
  | styZpx (z : Byte)
  | staZpx (z : Byte)
  | stxZpy (z : Byte)
  | saxZpy (z : Byte)
  | staAby (w : Word)
  | tasAby (w : Word)
  | shyAbx (w : Word)
  | staAbx (w : Word)
  | shxAby (w : Word)
  | ahxAby (w : Word)
  | ldyImm (b : Byte)
  | ldaIzx (z : Byte)
  | ldxImm (b : Byte)
  | laxIzx (z : Byte)
  | ldyZp (z : Byte)
  | ldaZp (z : Byte)
  | ldxZp (z : Byte)
  | laxZp (z : Byte)
  | ldaImm (b : Byte)
  | laxImm (b : Byte)
  | ldyAbs (w : Word)
  | ldaAbs (w : Word)
  | ldxAbs (w : Word)
  | laxAbs (w : Word)
  | bcsRel (o : Byte)
  | ldaIzy (z : Byte)
  | laxIzy (z : Byte)
  | ldyZpx (z : Byte)
  | ldaZpx (z : Byte)
  | ldxZpy (z : Byte)
  | laxZpy (z : Byte)
  | ldaAby (w : Word)
  | lasAby (w : Word)
  | ldyAbx (w : Word)
  | ldaAbx (w : Word)
  | ldxAby (w : Word)
  | laxAby (w : Word)
  | cpyImm (b : Byte)
  | cmpIzx (z : Byte)
  | nopImmC2 (b : Byte)
  | dcpIzx (z : Byte)
  | cpyZp (z : Byte)
  | cmpZp (z : Byte)
  | decZp (z : Byte)
  | dcpZp (z : Byte)
  | cmpImm (b : Byte)
  | axsImm (b : Byte)
  | cpyAbs (w : Word)
  | cmpAbs (w : Word)
  | decAbs (w : Word)
  | dcpAbs (w : Word)
  | bneRel (o : Byte)
  | cmpIzy (z : Byte)
  | dcpIzy (z : Byte)
  | nopZpxD4 (z : Byte)
  | cmpZpx (z : Byte)
  | decZpx (z : Byte)
  | dcpZpx (z : Byte)
  | cmpAby (w : Word)
  | dcpAby (w : Word)
  | nopAbxDC (w : Word)
  | cmpAbx (w : Word)
  | decAbx (w : Word)
  | dcpAbx (w : Word)
  | cpxImm (b : Byte)
  | sbcIzx (z : Byte)
  | nopImmE2 (b : Byte)
  | iscIzx (z : Byte)
  | cpxZp (z : Byte)
  | sbcZp (z : Byte)
  | incZp (z : Byte)
  | iscZp (z : Byte)
  | sbcImm (b : Byte)
  | sbcImmEB (b : Byte)
  | cpxAbs (w : Word)
  | sbcAbs (w : Word)
  | incAbs (w : Word)
  | iscAbs (w : Word)
  | beqRel (o : Byte)
  | sbcIzy (z : Byte)
  | iscIzy (z : Byte)
  | nopZpxF4 (z : Byte)
  | sbcZpx (z : Byte)
  | incZpx (z : Byte)
  | iscZpx (z : Byte)
  | sbcAby (w : Word)
  | iscAby (w : Word)
  | nopAbxFC (w : Word)
  | sbcAbx (w : Word)
  | incAbx (w : Word)
  | iscAbx (w : Word)
  | brk
  | kil02
  | php
  | aslAcc
  | kil12
  | clc
  | nopImp1A
  | kil22
  | plp
  | rolAcc
  | kil32
  | sec
  | nopImp3A
  | rti
  | kil42
  | pha
  | lsrAcc
  | kil52
  | cli
  | nopImp5A
  | rts
  | kil62
  | pla
  | rorAcc
  | kil72
  | sei
  | nopImp7A
  | dey
  | txa
  | kil92
  | tya
  | txs
  | tay
  | tax
  | kilB2
  | clv
  | tsx
  | iny
  | dex
  | kilD2
  | cld
  | nopImpDA
  | inx
  | nop
  | kilF2
  | sed
  | nopImpFA
deriving DecidableEq, Repr

end Sys2Proof
end

