-- ==== Sys2Proof/Decode.lean ====
section
/-! DEFINITION. Decoding (R100 to R109): the byte-order helpers, the opcode map, the total decoder, the encoder, and
the opcode table's other columns (mnemonic, operand form, base cycles). -/

namespace Sys2Proof

/-- R11: `lo(w)`. -/
def loByte (w : Word) : Byte := w.extractLsb' 0 8

/-- R11: `hi(w)`. -/
def hiByte (w : Word) : Byte := w.extractLsb' 8 8

/-- R11: the concatenation `{h, l}`, high byte first (little-endian operands and pointers, R67). -/
def joinBytes (h l : Byte) : Word := (h ++ l : BitVec 16)

/-- R11: `zext_16(b)`. -/
def zeroExtend (b : Byte) : Word := b.setWidth 16

/-- R11: `sext_16(b)`. -/
def signExtend (b : Byte) : Word := BitVec.signExtend 16 b

/-- One entry of the opcode map, by how many operand bytes its format consumes (R101). -/
inductive OpcodeRow
  | implied (i : Instr)
  | oneByte (make : Byte → Instr)
  | twoBytes (make : Word → Instr)

/-- The length in bytes of the instructions of a row (R101, R109). -/
def OpcodeRow.length : OpcodeRow → Nat
  | .implied _ => 1
  | .oneByte _ => 2
  | .twoBytes _ => 3

/-- R104: the opcodes 0x00 to 0x0F. -/
def opcodeRow0 : List OpcodeRow :=
  [ .implied .brk, .oneByte .oraIzx, .implied .kil02, .oneByte .sloIzx,
    .oneByte .nopZp04, .oneByte .oraZp, .oneByte .aslZp, .oneByte .sloZp,
    .implied .php, .oneByte .oraImm, .implied .aslAcc, .oneByte .ancImm0B,
    .twoBytes .nopAbs, .twoBytes .oraAbs, .twoBytes .aslAbs, .twoBytes .sloAbs ]

/-- R104: the opcodes 0x10 to 0x1F. -/
def opcodeRow1 : List OpcodeRow :=
  [ .oneByte .bplRel, .oneByte .oraIzy, .implied .kil12, .oneByte .sloIzy,
    .oneByte .nopZpx14, .oneByte .oraZpx, .oneByte .aslZpx, .oneByte .sloZpx,
    .implied .clc, .twoBytes .oraAby, .implied .nopImp1A, .twoBytes .sloAby,
    .twoBytes .nopAbx1C, .twoBytes .oraAbx, .twoBytes .aslAbx, .twoBytes .sloAbx ]

/-- R104: the opcodes 0x20 to 0x2F. -/
def opcodeRow2 : List OpcodeRow :=
  [ .twoBytes .jsrAbs, .oneByte .andIzx, .implied .kil22, .oneByte .rlaIzx,
    .oneByte .bitZp, .oneByte .andZp, .oneByte .rolZp, .oneByte .rlaZp,
    .implied .plp, .oneByte .andImm, .implied .rolAcc, .oneByte .ancImm2B,
    .twoBytes .bitAbs, .twoBytes .andAbs, .twoBytes .rolAbs, .twoBytes .rlaAbs ]

/-- R104: the opcodes 0x30 to 0x3F. -/
def opcodeRow3 : List OpcodeRow :=
  [ .oneByte .bmiRel, .oneByte .andIzy, .implied .kil32, .oneByte .rlaIzy,
    .oneByte .nopZpx34, .oneByte .andZpx, .oneByte .rolZpx, .oneByte .rlaZpx,
    .implied .sec, .twoBytes .andAby, .implied .nopImp3A, .twoBytes .rlaAby,
    .twoBytes .nopAbx3C, .twoBytes .andAbx, .twoBytes .rolAbx, .twoBytes .rlaAbx ]

/-- R104: the opcodes 0x40 to 0x4F. -/
def opcodeRow4 : List OpcodeRow :=
  [ .implied .rti, .oneByte .eorIzx, .implied .kil42, .oneByte .sreIzx,
    .oneByte .nopZp44, .oneByte .eorZp, .oneByte .lsrZp, .oneByte .sreZp,
    .implied .pha, .oneByte .eorImm, .implied .lsrAcc, .oneByte .alrImm,
    .twoBytes .jmpAbs, .twoBytes .eorAbs, .twoBytes .lsrAbs, .twoBytes .sreAbs ]

/-- R104: the opcodes 0x50 to 0x5F. -/
def opcodeRow5 : List OpcodeRow :=
  [ .oneByte .bvcRel, .oneByte .eorIzy, .implied .kil52, .oneByte .sreIzy,
    .oneByte .nopZpx54, .oneByte .eorZpx, .oneByte .lsrZpx, .oneByte .sreZpx,
    .implied .cli, .twoBytes .eorAby, .implied .nopImp5A, .twoBytes .sreAby,
    .twoBytes .nopAbx5C, .twoBytes .eorAbx, .twoBytes .lsrAbx, .twoBytes .sreAbx ]

/-- R104: the opcodes 0x60 to 0x6F. -/
def opcodeRow6 : List OpcodeRow :=
  [ .implied .rts, .oneByte .adcIzx, .implied .kil62, .oneByte .rraIzx,
    .oneByte .nopZp64, .oneByte .adcZp, .oneByte .rorZp, .oneByte .rraZp,
    .implied .pla, .oneByte .adcImm, .implied .rorAcc, .oneByte .arrImm,
    .twoBytes .jmpInd, .twoBytes .adcAbs, .twoBytes .rorAbs, .twoBytes .rraAbs ]

/-- R104: the opcodes 0x70 to 0x7F. -/
def opcodeRow7 : List OpcodeRow :=
  [ .oneByte .bvsRel, .oneByte .adcIzy, .implied .kil72, .oneByte .rraIzy,
    .oneByte .nopZpx74, .oneByte .adcZpx, .oneByte .rorZpx, .oneByte .rraZpx,
    .implied .sei, .twoBytes .adcAby, .implied .nopImp7A, .twoBytes .rraAby,
    .twoBytes .nopAbx7C, .twoBytes .adcAbx, .twoBytes .rorAbx, .twoBytes .rraAbx ]

/-- R104: the opcodes 0x80 to 0x8F. -/
def opcodeRow8 : List OpcodeRow :=
  [ .oneByte .nopImm80, .oneByte .staIzx, .oneByte .nopImm82, .oneByte .saxIzx,
    .oneByte .styZp, .oneByte .staZp, .oneByte .stxZp, .oneByte .saxZp,
    .implied .dey, .oneByte .nopImm89, .implied .txa, .oneByte .xaaImm,
    .twoBytes .styAbs, .twoBytes .staAbs, .twoBytes .stxAbs, .twoBytes .saxAbs ]

/-- R104: the opcodes 0x90 to 0x9F. -/
def opcodeRow9 : List OpcodeRow :=
  [ .oneByte .bccRel, .oneByte .staIzy, .implied .kil92, .oneByte .ahxIzy,
    .oneByte .styZpx, .oneByte .staZpx, .oneByte .stxZpy, .oneByte .saxZpy,
    .implied .tya, .twoBytes .staAby, .implied .txs, .twoBytes .tasAby,
    .twoBytes .shyAbx, .twoBytes .staAbx, .twoBytes .shxAby, .twoBytes .ahxAby ]

/-- R104: the opcodes 0xA0 to 0xAF. -/
def opcodeRowA : List OpcodeRow :=
  [ .oneByte .ldyImm, .oneByte .ldaIzx, .oneByte .ldxImm, .oneByte .laxIzx,
    .oneByte .ldyZp, .oneByte .ldaZp, .oneByte .ldxZp, .oneByte .laxZp,
    .implied .tay, .oneByte .ldaImm, .implied .tax, .oneByte .laxImm,
    .twoBytes .ldyAbs, .twoBytes .ldaAbs, .twoBytes .ldxAbs, .twoBytes .laxAbs ]

/-- R104: the opcodes 0xB0 to 0xBF. -/
def opcodeRowB : List OpcodeRow :=
  [ .oneByte .bcsRel, .oneByte .ldaIzy, .implied .kilB2, .oneByte .laxIzy,
    .oneByte .ldyZpx, .oneByte .ldaZpx, .oneByte .ldxZpy, .oneByte .laxZpy,
    .implied .clv, .twoBytes .ldaAby, .implied .tsx, .twoBytes .lasAby,
    .twoBytes .ldyAbx, .twoBytes .ldaAbx, .twoBytes .ldxAby, .twoBytes .laxAby ]

/-- R104: the opcodes 0xC0 to 0xCF. -/
def opcodeRowC : List OpcodeRow :=
  [ .oneByte .cpyImm, .oneByte .cmpIzx, .oneByte .nopImmC2, .oneByte .dcpIzx,
    .oneByte .cpyZp, .oneByte .cmpZp, .oneByte .decZp, .oneByte .dcpZp,
    .implied .iny, .oneByte .cmpImm, .implied .dex, .oneByte .axsImm,
    .twoBytes .cpyAbs, .twoBytes .cmpAbs, .twoBytes .decAbs, .twoBytes .dcpAbs ]

/-- R104: the opcodes 0xD0 to 0xDF. -/
def opcodeRowD : List OpcodeRow :=
  [ .oneByte .bneRel, .oneByte .cmpIzy, .implied .kilD2, .oneByte .dcpIzy,
    .oneByte .nopZpxD4, .oneByte .cmpZpx, .oneByte .decZpx, .oneByte .dcpZpx,
    .implied .cld, .twoBytes .cmpAby, .implied .nopImpDA, .twoBytes .dcpAby,
    .twoBytes .nopAbxDC, .twoBytes .cmpAbx, .twoBytes .decAbx, .twoBytes .dcpAbx ]

/-- R104: the opcodes 0xE0 to 0xEF. -/
def opcodeRowE : List OpcodeRow :=
  [ .oneByte .cpxImm, .oneByte .sbcIzx, .oneByte .nopImmE2, .oneByte .iscIzx,
    .oneByte .cpxZp, .oneByte .sbcZp, .oneByte .incZp, .oneByte .iscZp,
    .implied .inx, .oneByte .sbcImm, .implied .nop, .oneByte .sbcImmEB,
    .twoBytes .cpxAbs, .twoBytes .sbcAbs, .twoBytes .incAbs, .twoBytes .iscAbs ]

/-- R104: the opcodes 0xF0 to 0xFF. -/
def opcodeRowF : List OpcodeRow :=
  [ .oneByte .beqRel, .oneByte .sbcIzy, .implied .kilF2, .oneByte .iscIzy,
    .oneByte .nopZpxF4, .oneByte .sbcZpx, .oneByte .incZpx, .oneByte .iscZpx,
    .implied .sed, .twoBytes .sbcAby, .implied .nopImpFA, .twoBytes .iscAby,
    .twoBytes .nopAbxFC, .twoBytes .sbcAbx, .twoBytes .incAbx, .twoBytes .iscAbx ]

/-- R104: the opcode map, sixteen rows (high nibble) of sixteen cells (low nibble). -/
def opcodeMatrix : List (List OpcodeRow) :=
  [ opcodeRow0, opcodeRow1, opcodeRow2, opcodeRow3, opcodeRow4, opcodeRow5, opcodeRow6, opcodeRow7,
    opcodeRow8, opcodeRow9, opcodeRowA, opcodeRowB, opcodeRowC, opcodeRowD, opcodeRowE, opcodeRowF ]

/-- R102: the whole opcode byte is an index into the map. -/
def rowOf (op : Byte) : Option OpcodeRow :=
  match opcodeMatrix[op.toNat / 16]? with
  | some cells => cells[op.toNat % 16]?
  | none => none

/-- Why bytes do not decode. `noEntry` never happens, since the map is total (R106). -/
inductive DecodeError
  /-- No opcode byte. -/
  | noBytes
  /-- The opcode has no entry in the map. -/
  | noEntry (op : Byte)
  /-- The bytes end before the instruction's last operand byte. -/
  | truncated (op : Byte)
deriving DecidableEq, Repr

/-- R109: the length of the instruction an opcode byte begins. -/
def instrLength (op : Byte) : Nat :=
  match rowOf op with
  | some row => row.length
  | none => 1

/-- R100, R103, R106: the instruction that a byte string begins with, and the bytes after it. -/
def decode : List Byte → Except DecodeError (Instr × List Byte)
  | [] => .error .noBytes
  | op :: rest =>
    match rowOf op with
    | none => .error (.noEntry op)
    | some (.implied i) => .ok (i, rest)
    | some (.oneByte make) =>
      match rest with
      | b1 :: rest => .ok (make b1, rest)
      | [] => .error (.truncated op)
    | some (.twoBytes make) =>
      match rest with
      | b1 :: b2 :: rest => .ok (make (joinBytes b2 b1), rest)
      | _ => .error (.truncated op)

/-- The opcode byte of an instruction (the table's column `match`). -/
def Instr.opcode : Instr → Byte
  | .brk => 0x00
  | .oraIzx _ => 0x01
  | .kil02 => 0x02
  | .sloIzx _ => 0x03
  | .nopZp04 _ => 0x04
  | .oraZp _ => 0x05
  | .aslZp _ => 0x06
  | .sloZp _ => 0x07
  | .php => 0x08
  | .oraImm _ => 0x09
  | .aslAcc => 0x0A
  | .ancImm0B _ => 0x0B
  | .nopAbs _ => 0x0C
  | .oraAbs _ => 0x0D
  | .aslAbs _ => 0x0E
  | .sloAbs _ => 0x0F
  | .bplRel _ => 0x10
  | .oraIzy _ => 0x11
  | .kil12 => 0x12
  | .sloIzy _ => 0x13
  | .nopZpx14 _ => 0x14
  | .oraZpx _ => 0x15
  | .aslZpx _ => 0x16
  | .sloZpx _ => 0x17
  | .clc => 0x18
  | .oraAby _ => 0x19
  | .nopImp1A => 0x1A
  | .sloAby _ => 0x1B
  | .nopAbx1C _ => 0x1C
  | .oraAbx _ => 0x1D
  | .aslAbx _ => 0x1E
  | .sloAbx _ => 0x1F
  | .jsrAbs _ => 0x20
  | .andIzx _ => 0x21
  | .kil22 => 0x22
  | .rlaIzx _ => 0x23
  | .bitZp _ => 0x24
  | .andZp _ => 0x25
  | .rolZp _ => 0x26
  | .rlaZp _ => 0x27
  | .plp => 0x28
  | .andImm _ => 0x29
  | .rolAcc => 0x2A
  | .ancImm2B _ => 0x2B
  | .bitAbs _ => 0x2C
  | .andAbs _ => 0x2D
  | .rolAbs _ => 0x2E
  | .rlaAbs _ => 0x2F
  | .bmiRel _ => 0x30
  | .andIzy _ => 0x31
  | .kil32 => 0x32
  | .rlaIzy _ => 0x33
  | .nopZpx34 _ => 0x34
  | .andZpx _ => 0x35
  | .rolZpx _ => 0x36
  | .rlaZpx _ => 0x37
  | .sec => 0x38
  | .andAby _ => 0x39
  | .nopImp3A => 0x3A
  | .rlaAby _ => 0x3B
  | .nopAbx3C _ => 0x3C
  | .andAbx _ => 0x3D
  | .rolAbx _ => 0x3E
  | .rlaAbx _ => 0x3F
  | .rti => 0x40
  | .eorIzx _ => 0x41
  | .kil42 => 0x42
  | .sreIzx _ => 0x43
  | .nopZp44 _ => 0x44
  | .eorZp _ => 0x45
  | .lsrZp _ => 0x46
  | .sreZp _ => 0x47
  | .pha => 0x48
  | .eorImm _ => 0x49
  | .lsrAcc => 0x4A
  | .alrImm _ => 0x4B
  | .jmpAbs _ => 0x4C
  | .eorAbs _ => 0x4D
  | .lsrAbs _ => 0x4E
  | .sreAbs _ => 0x4F
  | .bvcRel _ => 0x50
  | .eorIzy _ => 0x51
  | .kil52 => 0x52
  | .sreIzy _ => 0x53
  | .nopZpx54 _ => 0x54
  | .eorZpx _ => 0x55
  | .lsrZpx _ => 0x56
  | .sreZpx _ => 0x57
  | .cli => 0x58
  | .eorAby _ => 0x59
  | .nopImp5A => 0x5A
  | .sreAby _ => 0x5B
  | .nopAbx5C _ => 0x5C
  | .eorAbx _ => 0x5D
  | .lsrAbx _ => 0x5E
  | .sreAbx _ => 0x5F
  | .rts => 0x60
  | .adcIzx _ => 0x61
  | .kil62 => 0x62
  | .rraIzx _ => 0x63
  | .nopZp64 _ => 0x64
  | .adcZp _ => 0x65
  | .rorZp _ => 0x66
  | .rraZp _ => 0x67
  | .pla => 0x68
  | .adcImm _ => 0x69
  | .rorAcc => 0x6A
  | .arrImm _ => 0x6B
  | .jmpInd _ => 0x6C
  | .adcAbs _ => 0x6D
  | .rorAbs _ => 0x6E
  | .rraAbs _ => 0x6F
  | .bvsRel _ => 0x70
  | .adcIzy _ => 0x71
  | .kil72 => 0x72
  | .rraIzy _ => 0x73
  | .nopZpx74 _ => 0x74
  | .adcZpx _ => 0x75
  | .rorZpx _ => 0x76
  | .rraZpx _ => 0x77
  | .sei => 0x78
  | .adcAby _ => 0x79
  | .nopImp7A => 0x7A
  | .rraAby _ => 0x7B
  | .nopAbx7C _ => 0x7C
  | .adcAbx _ => 0x7D
  | .rorAbx _ => 0x7E
  | .rraAbx _ => 0x7F
  | .nopImm80 _ => 0x80
  | .staIzx _ => 0x81
  | .nopImm82 _ => 0x82
  | .saxIzx _ => 0x83
  | .styZp _ => 0x84
  | .staZp _ => 0x85
  | .stxZp _ => 0x86
  | .saxZp _ => 0x87
  | .dey => 0x88
  | .nopImm89 _ => 0x89
  | .txa => 0x8A
  | .xaaImm _ => 0x8B
  | .styAbs _ => 0x8C
  | .staAbs _ => 0x8D
  | .stxAbs _ => 0x8E
  | .saxAbs _ => 0x8F
  | .bccRel _ => 0x90
  | .staIzy _ => 0x91
  | .kil92 => 0x92
  | .ahxIzy _ => 0x93
  | .styZpx _ => 0x94
  | .staZpx _ => 0x95
  | .stxZpy _ => 0x96
  | .saxZpy _ => 0x97
  | .tya => 0x98
  | .staAby _ => 0x99
  | .txs => 0x9A
  | .tasAby _ => 0x9B
  | .shyAbx _ => 0x9C
  | .staAbx _ => 0x9D
  | .shxAby _ => 0x9E
  | .ahxAby _ => 0x9F
  | .ldyImm _ => 0xA0
  | .ldaIzx _ => 0xA1
  | .ldxImm _ => 0xA2
  | .laxIzx _ => 0xA3
  | .ldyZp _ => 0xA4
  | .ldaZp _ => 0xA5
  | .ldxZp _ => 0xA6
  | .laxZp _ => 0xA7
  | .tay => 0xA8
  | .ldaImm _ => 0xA9
  | .tax => 0xAA
  | .laxImm _ => 0xAB
  | .ldyAbs _ => 0xAC
  | .ldaAbs _ => 0xAD
  | .ldxAbs _ => 0xAE
  | .laxAbs _ => 0xAF
  | .bcsRel _ => 0xB0
  | .ldaIzy _ => 0xB1
  | .kilB2 => 0xB2
  | .laxIzy _ => 0xB3
  | .ldyZpx _ => 0xB4
  | .ldaZpx _ => 0xB5
  | .ldxZpy _ => 0xB6
  | .laxZpy _ => 0xB7
  | .clv => 0xB8
  | .ldaAby _ => 0xB9
  | .tsx => 0xBA
  | .lasAby _ => 0xBB
  | .ldyAbx _ => 0xBC
  | .ldaAbx _ => 0xBD
  | .ldxAby _ => 0xBE
  | .laxAby _ => 0xBF
  | .cpyImm _ => 0xC0
  | .cmpIzx _ => 0xC1
  | .nopImmC2 _ => 0xC2
  | .dcpIzx _ => 0xC3
  | .cpyZp _ => 0xC4
  | .cmpZp _ => 0xC5
  | .decZp _ => 0xC6
  | .dcpZp _ => 0xC7
  | .iny => 0xC8
  | .cmpImm _ => 0xC9
  | .dex => 0xCA
  | .axsImm _ => 0xCB
  | .cpyAbs _ => 0xCC
  | .cmpAbs _ => 0xCD
  | .decAbs _ => 0xCE
  | .dcpAbs _ => 0xCF
  | .bneRel _ => 0xD0
  | .cmpIzy _ => 0xD1
  | .kilD2 => 0xD2
  | .dcpIzy _ => 0xD3
  | .nopZpxD4 _ => 0xD4
  | .cmpZpx _ => 0xD5
  | .decZpx _ => 0xD6
  | .dcpZpx _ => 0xD7
  | .cld => 0xD8
  | .cmpAby _ => 0xD9
  | .nopImpDA => 0xDA
  | .dcpAby _ => 0xDB
  | .nopAbxDC _ => 0xDC
  | .cmpAbx _ => 0xDD
  | .decAbx _ => 0xDE
  | .dcpAbx _ => 0xDF
  | .cpxImm _ => 0xE0
  | .sbcIzx _ => 0xE1
  | .nopImmE2 _ => 0xE2
  | .iscIzx _ => 0xE3
  | .cpxZp _ => 0xE4
  | .sbcZp _ => 0xE5
  | .incZp _ => 0xE6
  | .iscZp _ => 0xE7
  | .inx => 0xE8
  | .sbcImm _ => 0xE9
  | .nop => 0xEA
  | .sbcImmEB _ => 0xEB
  | .cpxAbs _ => 0xEC
  | .sbcAbs _ => 0xED
  | .incAbs _ => 0xEE
  | .iscAbs _ => 0xEF
  | .beqRel _ => 0xF0
  | .sbcIzy _ => 0xF1
  | .kilF2 => 0xF2
  | .iscIzy _ => 0xF3
  | .nopZpxF4 _ => 0xF4
  | .sbcZpx _ => 0xF5
  | .incZpx _ => 0xF6
  | .iscZpx _ => 0xF7
  | .sed => 0xF8
  | .sbcAby _ => 0xF9
  | .nopImpFA => 0xFA
  | .iscAby _ => 0xFB
  | .nopAbxFC _ => 0xFC
  | .sbcAbx _ => 0xFD
  | .incAbx _ => 0xFE
  | .iscAbx _ => 0xFF

/-- The operand of an instruction in its addressing mode (the table's column `format`); none for Implicit. -/
def Instr.operand : Instr → Option Operand
  | .brk => none
  | .oraIzx z => some (.izx z)
  | .kil02 => none
  | .sloIzx z => some (.izx z)
  | .nopZp04 z => some (.zp z)
  | .oraZp z => some (.zp z)
  | .aslZp z => some (.zp z)
  | .sloZp z => some (.zp z)
  | .php => none
  | .oraImm b => some (.imm b)
  | .aslAcc => none
  | .ancImm0B b => some (.imm b)
  | .nopAbs w => some (.abs w)
  | .oraAbs w => some (.abs w)
  | .aslAbs w => some (.abs w)
  | .sloAbs w => some (.abs w)
  | .bplRel o => some (.rel o)
  | .oraIzy z => some (.izy z)
  | .kil12 => none
  | .sloIzy z => some (.izy z)
  | .nopZpx14 z => some (.zpx z)
  | .oraZpx z => some (.zpx z)
  | .aslZpx z => some (.zpx z)
  | .sloZpx z => some (.zpx z)
  | .clc => none
  | .oraAby w => some (.aby w)
  | .nopImp1A => none
  | .sloAby w => some (.aby w)
  | .nopAbx1C w => some (.abx w)
  | .oraAbx w => some (.abx w)
  | .aslAbx w => some (.abx w)
  | .sloAbx w => some (.abx w)
  | .jsrAbs w => some (.abs w)
  | .andIzx z => some (.izx z)
  | .kil22 => none
  | .rlaIzx z => some (.izx z)
  | .bitZp z => some (.zp z)
  | .andZp z => some (.zp z)
  | .rolZp z => some (.zp z)
  | .rlaZp z => some (.zp z)
  | .plp => none
  | .andImm b => some (.imm b)
  | .rolAcc => none
  | .ancImm2B b => some (.imm b)
  | .bitAbs w => some (.abs w)
  | .andAbs w => some (.abs w)
  | .rolAbs w => some (.abs w)
  | .rlaAbs w => some (.abs w)
  | .bmiRel o => some (.rel o)
  | .andIzy z => some (.izy z)
  | .kil32 => none
  | .rlaIzy z => some (.izy z)
  | .nopZpx34 z => some (.zpx z)
  | .andZpx z => some (.zpx z)
  | .rolZpx z => some (.zpx z)
  | .rlaZpx z => some (.zpx z)
  | .sec => none
  | .andAby w => some (.aby w)
  | .nopImp3A => none
  | .rlaAby w => some (.aby w)
  | .nopAbx3C w => some (.abx w)
  | .andAbx w => some (.abx w)
  | .rolAbx w => some (.abx w)
  | .rlaAbx w => some (.abx w)
  | .rti => none
  | .eorIzx z => some (.izx z)
  | .kil42 => none
  | .sreIzx z => some (.izx z)
  | .nopZp44 z => some (.zp z)
  | .eorZp z => some (.zp z)
  | .lsrZp z => some (.zp z)
  | .sreZp z => some (.zp z)
  | .pha => none
  | .eorImm b => some (.imm b)
  | .lsrAcc => none
  | .alrImm b => some (.imm b)
  | .jmpAbs w => some (.abs w)
  | .eorAbs w => some (.abs w)
  | .lsrAbs w => some (.abs w)
  | .sreAbs w => some (.abs w)
  | .bvcRel o => some (.rel o)
  | .eorIzy z => some (.izy z)
  | .kil52 => none
  | .sreIzy z => some (.izy z)
  | .nopZpx54 z => some (.zpx z)
  | .eorZpx z => some (.zpx z)
  | .lsrZpx z => some (.zpx z)
  | .sreZpx z => some (.zpx z)
  | .cli => none
  | .eorAby w => some (.aby w)
  | .nopImp5A => none
  | .sreAby w => some (.aby w)
  | .nopAbx5C w => some (.abx w)
  | .eorAbx w => some (.abx w)
  | .lsrAbx w => some (.abx w)
  | .sreAbx w => some (.abx w)
  | .rts => none
  | .adcIzx z => some (.izx z)
  | .kil62 => none
  | .rraIzx z => some (.izx z)
  | .nopZp64 z => some (.zp z)
  | .adcZp z => some (.zp z)
  | .rorZp z => some (.zp z)
  | .rraZp z => some (.zp z)
  | .pla => none
  | .adcImm b => some (.imm b)
  | .rorAcc => none
  | .arrImm b => some (.imm b)
  | .jmpInd w => some (.ind w)
  | .adcAbs w => some (.abs w)
  | .rorAbs w => some (.abs w)
  | .rraAbs w => some (.abs w)
  | .bvsRel o => some (.rel o)
  | .adcIzy z => some (.izy z)
  | .kil72 => none
  | .rraIzy z => some (.izy z)
  | .nopZpx74 z => some (.zpx z)
  | .adcZpx z => some (.zpx z)
  | .rorZpx z => some (.zpx z)
  | .rraZpx z => some (.zpx z)
  | .sei => none
  | .adcAby w => some (.aby w)
  | .nopImp7A => none
  | .rraAby w => some (.aby w)
  | .nopAbx7C w => some (.abx w)
  | .adcAbx w => some (.abx w)
  | .rorAbx w => some (.abx w)
  | .rraAbx w => some (.abx w)
  | .nopImm80 b => some (.imm b)
  | .staIzx z => some (.izx z)
  | .nopImm82 b => some (.imm b)
  | .saxIzx z => some (.izx z)
  | .styZp z => some (.zp z)
  | .staZp z => some (.zp z)
  | .stxZp z => some (.zp z)
  | .saxZp z => some (.zp z)
  | .dey => none
  | .nopImm89 b => some (.imm b)
  | .txa => none
  | .xaaImm b => some (.imm b)
  | .styAbs w => some (.abs w)
  | .staAbs w => some (.abs w)
  | .stxAbs w => some (.abs w)
  | .saxAbs w => some (.abs w)
  | .bccRel o => some (.rel o)
  | .staIzy z => some (.izy z)
  | .kil92 => none
  | .ahxIzy z => some (.izy z)
  | .styZpx z => some (.zpx z)
  | .staZpx z => some (.zpx z)
  | .stxZpy z => some (.zpy z)
  | .saxZpy z => some (.zpy z)
  | .tya => none
  | .staAby w => some (.aby w)
  | .txs => none
  | .tasAby w => some (.aby w)
  | .shyAbx w => some (.abx w)
  | .staAbx w => some (.abx w)
  | .shxAby w => some (.aby w)
  | .ahxAby w => some (.aby w)
  | .ldyImm b => some (.imm b)
  | .ldaIzx z => some (.izx z)
  | .ldxImm b => some (.imm b)
  | .laxIzx z => some (.izx z)
  | .ldyZp z => some (.zp z)
  | .ldaZp z => some (.zp z)
  | .ldxZp z => some (.zp z)
  | .laxZp z => some (.zp z)
  | .tay => none
  | .ldaImm b => some (.imm b)
  | .tax => none
  | .laxImm b => some (.imm b)
  | .ldyAbs w => some (.abs w)
  | .ldaAbs w => some (.abs w)
  | .ldxAbs w => some (.abs w)
  | .laxAbs w => some (.abs w)
  | .bcsRel o => some (.rel o)
  | .ldaIzy z => some (.izy z)
  | .kilB2 => none
  | .laxIzy z => some (.izy z)
  | .ldyZpx z => some (.zpx z)
  | .ldaZpx z => some (.zpx z)
  | .ldxZpy z => some (.zpy z)
  | .laxZpy z => some (.zpy z)
  | .clv => none
  | .ldaAby w => some (.aby w)
  | .tsx => none
  | .lasAby w => some (.aby w)
  | .ldyAbx w => some (.abx w)
  | .ldaAbx w => some (.abx w)
  | .ldxAby w => some (.aby w)
  | .laxAby w => some (.aby w)
  | .cpyImm b => some (.imm b)
  | .cmpIzx z => some (.izx z)
  | .nopImmC2 b => some (.imm b)
  | .dcpIzx z => some (.izx z)
  | .cpyZp z => some (.zp z)
  | .cmpZp z => some (.zp z)
  | .decZp z => some (.zp z)
  | .dcpZp z => some (.zp z)
  | .iny => none
  | .cmpImm b => some (.imm b)
  | .dex => none
  | .axsImm b => some (.imm b)
  | .cpyAbs w => some (.abs w)
  | .cmpAbs w => some (.abs w)
  | .decAbs w => some (.abs w)
  | .dcpAbs w => some (.abs w)
  | .bneRel o => some (.rel o)
  | .cmpIzy z => some (.izy z)
  | .kilD2 => none
  | .dcpIzy z => some (.izy z)
  | .nopZpxD4 z => some (.zpx z)
  | .cmpZpx z => some (.zpx z)
  | .decZpx z => some (.zpx z)
  | .dcpZpx z => some (.zpx z)
  | .cld => none
  | .cmpAby w => some (.aby w)
  | .nopImpDA => none
  | .dcpAby w => some (.aby w)
  | .nopAbxDC w => some (.abx w)
  | .cmpAbx w => some (.abx w)
  | .decAbx w => some (.abx w)
  | .dcpAbx w => some (.abx w)
  | .cpxImm b => some (.imm b)
  | .sbcIzx z => some (.izx z)
  | .nopImmE2 b => some (.imm b)
  | .iscIzx z => some (.izx z)
  | .cpxZp z => some (.zp z)
  | .sbcZp z => some (.zp z)
  | .incZp z => some (.zp z)
  | .iscZp z => some (.zp z)
  | .inx => none
  | .sbcImm b => some (.imm b)
  | .nop => none
  | .sbcImmEB b => some (.imm b)
  | .cpxAbs w => some (.abs w)
  | .sbcAbs w => some (.abs w)
  | .incAbs w => some (.abs w)
  | .iscAbs w => some (.abs w)
  | .beqRel o => some (.rel o)
  | .sbcIzy z => some (.izy z)
  | .kilF2 => none
  | .iscIzy z => some (.izy z)
  | .nopZpxF4 z => some (.zpx z)
  | .sbcZpx z => some (.zpx z)
  | .incZpx z => some (.zpx z)
  | .iscZpx z => some (.zpx z)
  | .sed => none
  | .sbcAby w => some (.aby w)
  | .nopImpFA => none
  | .iscAby w => some (.aby w)
  | .nopAbxFC w => some (.abx w)
  | .sbcAbx w => some (.abx w)
  | .incAbx w => some (.abx w)
  | .iscAbx w => some (.abx w)

/-- R101: whether the entry of an opcode byte has Immediate format. -/
def isImmediate (op : Byte) : Bool :=
  match rowOf op with
  | some (.oneByte make) =>
    match (make 0).operand with
    | some (.imm _) => true
    | _ => false
  | _ => false

/-- The mnemonic of an instruction (the table's column `mnemonic`). -/
def Instr.mnemonic : Instr → Mnemonic
  | .brk => .brk
  | .oraIzx _ => .ora
  | .kil02 => .kil
  | .sloIzx _ => .slo
  | .nopZp04 _ => .nop
  | .oraZp _ => .ora
  | .aslZp _ => .asl
  | .sloZp _ => .slo
  | .php => .php
  | .oraImm _ => .ora
  | .aslAcc => .asl
  | .ancImm0B _ => .anc
  | .nopAbs _ => .nop
  | .oraAbs _ => .ora
  | .aslAbs _ => .asl
  | .sloAbs _ => .slo
  | .bplRel _ => .bpl
  | .oraIzy _ => .ora
  | .kil12 => .kil
  | .sloIzy _ => .slo
  | .nopZpx14 _ => .nop
  | .oraZpx _ => .ora
  | .aslZpx _ => .asl
  | .sloZpx _ => .slo
  | .clc => .clc
  | .oraAby _ => .ora
  | .nopImp1A => .nop
  | .sloAby _ => .slo
  | .nopAbx1C _ => .nop
  | .oraAbx _ => .ora
  | .aslAbx _ => .asl
  | .sloAbx _ => .slo
  | .jsrAbs _ => .jsr
  | .andIzx _ => .and
  | .kil22 => .kil
  | .rlaIzx _ => .rla
  | .bitZp _ => .bit
  | .andZp _ => .and
  | .rolZp _ => .rol
  | .rlaZp _ => .rla
  | .plp => .plp
  | .andImm _ => .and
  | .rolAcc => .rol
  | .ancImm2B _ => .anc
  | .bitAbs _ => .bit
  | .andAbs _ => .and
  | .rolAbs _ => .rol
  | .rlaAbs _ => .rla
  | .bmiRel _ => .bmi
  | .andIzy _ => .and
  | .kil32 => .kil
  | .rlaIzy _ => .rla
  | .nopZpx34 _ => .nop
  | .andZpx _ => .and
  | .rolZpx _ => .rol
  | .rlaZpx _ => .rla
  | .sec => .sec
  | .andAby _ => .and
  | .nopImp3A => .nop
  | .rlaAby _ => .rla
  | .nopAbx3C _ => .nop
  | .andAbx _ => .and
  | .rolAbx _ => .rol
  | .rlaAbx _ => .rla
  | .rti => .rti
  | .eorIzx _ => .eor
  | .kil42 => .kil
  | .sreIzx _ => .sre
  | .nopZp44 _ => .nop
  | .eorZp _ => .eor
  | .lsrZp _ => .lsr
  | .sreZp _ => .sre
  | .pha => .pha
  | .eorImm _ => .eor
  | .lsrAcc => .lsr
  | .alrImm _ => .alr
  | .jmpAbs _ => .jmp
  | .eorAbs _ => .eor
  | .lsrAbs _ => .lsr
  | .sreAbs _ => .sre
  | .bvcRel _ => .bvc
  | .eorIzy _ => .eor
  | .kil52 => .kil
  | .sreIzy _ => .sre
  | .nopZpx54 _ => .nop
  | .eorZpx _ => .eor
  | .lsrZpx _ => .lsr
  | .sreZpx _ => .sre
  | .cli => .cli
  | .eorAby _ => .eor
  | .nopImp5A => .nop
  | .sreAby _ => .sre
  | .nopAbx5C _ => .nop
  | .eorAbx _ => .eor
  | .lsrAbx _ => .lsr
  | .sreAbx _ => .sre
  | .rts => .rts
  | .adcIzx _ => .adc
  | .kil62 => .kil
  | .rraIzx _ => .rra
  | .nopZp64 _ => .nop
  | .adcZp _ => .adc
  | .rorZp _ => .ror
  | .rraZp _ => .rra
  | .pla => .pla
  | .adcImm _ => .adc
  | .rorAcc => .ror
  | .arrImm _ => .arr
  | .jmpInd _ => .jmp
  | .adcAbs _ => .adc
  | .rorAbs _ => .ror
  | .rraAbs _ => .rra
  | .bvsRel _ => .bvs
  | .adcIzy _ => .adc
  | .kil72 => .kil
  | .rraIzy _ => .rra
  | .nopZpx74 _ => .nop
  | .adcZpx _ => .adc
  | .rorZpx _ => .ror
  | .rraZpx _ => .rra
  | .sei => .sei
  | .adcAby _ => .adc
  | .nopImp7A => .nop
  | .rraAby _ => .rra
  | .nopAbx7C _ => .nop
  | .adcAbx _ => .adc
  | .rorAbx _ => .ror
  | .rraAbx _ => .rra
  | .nopImm80 _ => .nop
  | .staIzx _ => .sta
  | .nopImm82 _ => .nop
  | .saxIzx _ => .sax
  | .styZp _ => .sty
  | .staZp _ => .sta
  | .stxZp _ => .stx
  | .saxZp _ => .sax
  | .dey => .dey
  | .nopImm89 _ => .nop
  | .txa => .txa
  | .xaaImm _ => .xaa
  | .styAbs _ => .sty
  | .staAbs _ => .sta
  | .stxAbs _ => .stx
  | .saxAbs _ => .sax
  | .bccRel _ => .bcc
  | .staIzy _ => .sta
  | .kil92 => .kil
  | .ahxIzy _ => .ahx
  | .styZpx _ => .sty
  | .staZpx _ => .sta
  | .stxZpy _ => .stx
  | .saxZpy _ => .sax
  | .tya => .tya
  | .staAby _ => .sta
  | .txs => .txs
  | .tasAby _ => .tas
  | .shyAbx _ => .shy
  | .staAbx _ => .sta
  | .shxAby _ => .shx
  | .ahxAby _ => .ahx
  | .ldyImm _ => .ldy
  | .ldaIzx _ => .lda
  | .ldxImm _ => .ldx
  | .laxIzx _ => .lax
  | .ldyZp _ => .ldy
  | .ldaZp _ => .lda
  | .ldxZp _ => .ldx
  | .laxZp _ => .lax
  | .tay => .tay
  | .ldaImm _ => .lda
  | .tax => .tax
  | .laxImm _ => .lax
  | .ldyAbs _ => .ldy
  | .ldaAbs _ => .lda
  | .ldxAbs _ => .ldx
  | .laxAbs _ => .lax
  | .bcsRel _ => .bcs
  | .ldaIzy _ => .lda
  | .kilB2 => .kil
  | .laxIzy _ => .lax
  | .ldyZpx _ => .ldy
  | .ldaZpx _ => .lda
  | .ldxZpy _ => .ldx
  | .laxZpy _ => .lax
  | .clv => .clv
  | .ldaAby _ => .lda
  | .tsx => .tsx
  | .lasAby _ => .las
  | .ldyAbx _ => .ldy
  | .ldaAbx _ => .lda
  | .ldxAby _ => .ldx
  | .laxAby _ => .lax
  | .cpyImm _ => .cpy
  | .cmpIzx _ => .cmp
  | .nopImmC2 _ => .nop
  | .dcpIzx _ => .dcp
  | .cpyZp _ => .cpy
  | .cmpZp _ => .cmp
  | .decZp _ => .dec
  | .dcpZp _ => .dcp
  | .iny => .iny
  | .cmpImm _ => .cmp
  | .dex => .dex
  | .axsImm _ => .axs
  | .cpyAbs _ => .cpy
  | .cmpAbs _ => .cmp
  | .decAbs _ => .dec
  | .dcpAbs _ => .dcp
  | .bneRel _ => .bne
  | .cmpIzy _ => .cmp
  | .kilD2 => .kil
  | .dcpIzy _ => .dcp
  | .nopZpxD4 _ => .nop
  | .cmpZpx _ => .cmp
  | .decZpx _ => .dec
  | .dcpZpx _ => .dcp
  | .cld => .cld
  | .cmpAby _ => .cmp
  | .nopImpDA => .nop
  | .dcpAby _ => .dcp
  | .nopAbxDC _ => .nop
  | .cmpAbx _ => .cmp
  | .decAbx _ => .dec
  | .dcpAbx _ => .dcp
  | .cpxImm _ => .cpx
  | .sbcIzx _ => .sbc
  | .nopImmE2 _ => .nop
  | .iscIzx _ => .isc
  | .cpxZp _ => .cpx
  | .sbcZp _ => .sbc
  | .incZp _ => .inc
  | .iscZp _ => .isc
  | .inx => .inx
  | .sbcImm _ => .sbc
  | .nop => .nop
  | .sbcImmEB _ => .sbc
  | .cpxAbs _ => .cpx
  | .sbcAbs _ => .sbc
  | .incAbs _ => .inc
  | .iscAbs _ => .isc
  | .beqRel _ => .beq
  | .sbcIzy _ => .sbc
  | .kilF2 => .kil
  | .iscIzy _ => .isc
  | .nopZpxF4 _ => .nop
  | .sbcZpx _ => .sbc
  | .incZpx _ => .inc
  | .iscZpx _ => .isc
  | .sed => .sed
  | .sbcAby _ => .sbc
  | .nopImpFA => .nop
  | .iscAby _ => .isc
  | .nopAbxFC _ => .nop
  | .sbcAbx _ => .sbc
  | .incAbx _ => .inc
  | .iscAbx _ => .isc

/-- The base cycle count of an instruction (the table's column `base_cycles`, R104, R415). -/
def Instr.baseCycles : Instr → Nat
  | .brk => 7
  | .oraIzx _ => 6
  | .kil02 => 2
  | .sloIzx _ => 8
  | .nopZp04 _ => 3
  | .oraZp _ => 3
  | .aslZp _ => 5
  | .sloZp _ => 5
  | .php => 3
  | .oraImm _ => 2
  | .aslAcc => 2
  | .ancImm0B _ => 2
  | .nopAbs _ => 4
  | .oraAbs _ => 4
  | .aslAbs _ => 6
  | .sloAbs _ => 6
  | .bplRel _ => 2
  | .oraIzy _ => 5
  | .kil12 => 2
  | .sloIzy _ => 8
  | .nopZpx14 _ => 4
  | .oraZpx _ => 4
  | .aslZpx _ => 6
  | .sloZpx _ => 6
  | .clc => 2
  | .oraAby _ => 4
  | .nopImp1A => 2
  | .sloAby _ => 7
  | .nopAbx1C _ => 4
  | .oraAbx _ => 4
  | .aslAbx _ => 7
  | .sloAbx _ => 7
  | .jsrAbs _ => 6
  | .andIzx _ => 6
  | .kil22 => 2
  | .rlaIzx _ => 8
  | .bitZp _ => 3
  | .andZp _ => 3
  | .rolZp _ => 5
  | .rlaZp _ => 5
  | .plp => 4
  | .andImm _ => 2
  | .rolAcc => 2
  | .ancImm2B _ => 2
  | .bitAbs _ => 4
  | .andAbs _ => 4
  | .rolAbs _ => 6
  | .rlaAbs _ => 6
  | .bmiRel _ => 2
  | .andIzy _ => 5
  | .kil32 => 2
  | .rlaIzy _ => 8
  | .nopZpx34 _ => 4
  | .andZpx _ => 4
  | .rolZpx _ => 6
  | .rlaZpx _ => 6
  | .sec => 2
  | .andAby _ => 4
  | .nopImp3A => 2
  | .rlaAby _ => 7
  | .nopAbx3C _ => 4
  | .andAbx _ => 4
  | .rolAbx _ => 7
  | .rlaAbx _ => 7
  | .rti => 6
  | .eorIzx _ => 6
  | .kil42 => 2
  | .sreIzx _ => 8
  | .nopZp44 _ => 3
  | .eorZp _ => 3
  | .lsrZp _ => 5
  | .sreZp _ => 5
  | .pha => 3
  | .eorImm _ => 2
  | .lsrAcc => 2
  | .alrImm _ => 2
  | .jmpAbs _ => 3
  | .eorAbs _ => 4
  | .lsrAbs _ => 6
  | .sreAbs _ => 6
  | .bvcRel _ => 2
  | .eorIzy _ => 5
  | .kil52 => 2
  | .sreIzy _ => 8
  | .nopZpx54 _ => 4
  | .eorZpx _ => 4
  | .lsrZpx _ => 6
  | .sreZpx _ => 6
  | .cli => 2
  | .eorAby _ => 4
  | .nopImp5A => 2
  | .sreAby _ => 7
  | .nopAbx5C _ => 4
  | .eorAbx _ => 4
  | .lsrAbx _ => 7
  | .sreAbx _ => 7
  | .rts => 6
  | .adcIzx _ => 6
  | .kil62 => 2
  | .rraIzx _ => 8
  | .nopZp64 _ => 3
  | .adcZp _ => 3
  | .rorZp _ => 5
  | .rraZp _ => 5
  | .pla => 4
  | .adcImm _ => 2
  | .rorAcc => 2
  | .arrImm _ => 2
  | .jmpInd _ => 5
  | .adcAbs _ => 4
  | .rorAbs _ => 6
  | .rraAbs _ => 6
  | .bvsRel _ => 2
  | .adcIzy _ => 5
  | .kil72 => 2
  | .rraIzy _ => 8
  | .nopZpx74 _ => 4
  | .adcZpx _ => 4
  | .rorZpx _ => 6
  | .rraZpx _ => 6
  | .sei => 2
  | .adcAby _ => 4
  | .nopImp7A => 2
  | .rraAby _ => 7
  | .nopAbx7C _ => 4
  | .adcAbx _ => 4
  | .rorAbx _ => 7
  | .rraAbx _ => 7
  | .nopImm80 _ => 2
  | .staIzx _ => 6
  | .nopImm82 _ => 2
  | .saxIzx _ => 6
  | .styZp _ => 3
  | .staZp _ => 3
  | .stxZp _ => 3
  | .saxZp _ => 3
  | .dey => 2
  | .nopImm89 _ => 2
  | .txa => 2
  | .xaaImm _ => 2
  | .styAbs _ => 4
  | .staAbs _ => 4
  | .stxAbs _ => 4
  | .saxAbs _ => 4
  | .bccRel _ => 2
  | .staIzy _ => 6
  | .kil92 => 2
  | .ahxIzy _ => 6
  | .styZpx _ => 4
  | .staZpx _ => 4
  | .stxZpy _ => 4
  | .saxZpy _ => 4
  | .tya => 2
  | .staAby _ => 5
  | .txs => 2
  | .tasAby _ => 5
  | .shyAbx _ => 5
  | .staAbx _ => 5
  | .shxAby _ => 5
  | .ahxAby _ => 5
  | .ldyImm _ => 2
  | .ldaIzx _ => 6
  | .ldxImm _ => 2
  | .laxIzx _ => 6
  | .ldyZp _ => 3
  | .ldaZp _ => 3
  | .ldxZp _ => 3
  | .laxZp _ => 3
  | .tay => 2
  | .ldaImm _ => 2
  | .tax => 2
  | .laxImm _ => 2
  | .ldyAbs _ => 4
  | .ldaAbs _ => 4
  | .ldxAbs _ => 4
  | .laxAbs _ => 4
  | .bcsRel _ => 2
  | .ldaIzy _ => 5
  | .kilB2 => 2
  | .laxIzy _ => 5
  | .ldyZpx _ => 4
  | .ldaZpx _ => 4
  | .ldxZpy _ => 4
  | .laxZpy _ => 4
  | .clv => 2
  | .ldaAby _ => 4
  | .tsx => 2
  | .lasAby _ => 4
  | .ldyAbx _ => 4
  | .ldaAbx _ => 4
  | .ldxAby _ => 4
  | .laxAby _ => 4
  | .cpyImm _ => 2
  | .cmpIzx _ => 6
  | .nopImmC2 _ => 2
  | .dcpIzx _ => 8
  | .cpyZp _ => 3
  | .cmpZp _ => 3
  | .decZp _ => 5
  | .dcpZp _ => 5
  | .iny => 2
  | .cmpImm _ => 2
  | .dex => 2
  | .axsImm _ => 2
  | .cpyAbs _ => 4
  | .cmpAbs _ => 4
  | .decAbs _ => 6
  | .dcpAbs _ => 6
  | .bneRel _ => 2
  | .cmpIzy _ => 5
  | .kilD2 => 2
  | .dcpIzy _ => 8
  | .nopZpxD4 _ => 4
  | .cmpZpx _ => 4
  | .decZpx _ => 6
  | .dcpZpx _ => 6
  | .cld => 2
  | .cmpAby _ => 4
  | .nopImpDA => 2
  | .dcpAby _ => 7
  | .nopAbxDC _ => 4
  | .cmpAbx _ => 4
  | .decAbx _ => 7
  | .dcpAbx _ => 7
  | .cpxImm _ => 2
  | .sbcIzx _ => 6
  | .nopImmE2 _ => 2
  | .iscIzx _ => 8
  | .cpxZp _ => 3
  | .sbcZp _ => 3
  | .incZp _ => 5
  | .iscZp _ => 5
  | .inx => 2
  | .sbcImm _ => 2
  | .nop => 2
  | .sbcImmEB _ => 2
  | .cpxAbs _ => 4
  | .sbcAbs _ => 4
  | .incAbs _ => 6
  | .iscAbs _ => 6
  | .beqRel _ => 2
  | .sbcIzy _ => 5
  | .kilF2 => 2
  | .iscIzy _ => 8
  | .nopZpxF4 _ => 4
  | .sbcZpx _ => 4
  | .incZpx _ => 6
  | .iscZpx _ => 6
  | .sed => 2
  | .sbcAby _ => 4
  | .nopImpFA => 2
  | .iscAby _ => 7
  | .nopAbxFC _ => 4
  | .sbcAbx _ => 4
  | .incAbx _ => 7
  | .iscAbx _ => 7

/-- R68, R101: the operand bytes of a form, low byte first. -/
def Operand.bytes : Operand → List Byte
  | .imm b | .zp b | .zpx b | .zpy b | .izx b | .izy b | .rel b => [b]
  | .abs w | .abx w | .aby w | .ind w => [loByte w, hiByte w]

/-- R100: the bytes of an instruction, opcode first. -/
def encode (i : Instr) : List Byte :=
  i.opcode :: match i.operand with
    | some o => o.bytes
    | none => []

/-- R101: the length of an instruction in bytes. -/
def Instr.length (i : Instr) : Nat := (encode i).length

/-- The first three bytes of an instruction whose bits are `w`, numbered as the opcode table numbers them (bit 0 is
the least significant bit of the first byte); every bit above `nbits` is 0. -/
def wordBytes (nbits w : Nat) : List Byte :=
  let v := w % 2 ^ nbits
  [BitVec.ofNat 8 v, BitVec.ofNat 8 (v / 256), BitVec.ofNat 8 (v / 65536)]

/-- The instruction the decoder reads from the bits of a table row. -/
def decodeTableWord (nbits w : Nat) : Option Instr :=
  match decode (wordBytes nbits w) with
  | .ok (i, _) => some i
  | .error _ => none

end Sys2Proof
end

