-- ==== Sys2Proof/Config.lean ====
section
/-! DEFINITION. The fixed parameters (R6, R7), the open launch parameters (R8) and the free values. -/

namespace Sys2Proof

/-- R8, R373: what happens to an IRQ that is pending while `P.I = 1` (IRQ_MASKED_POLICY). -/
inductive IrqMaskedPolicy
  | hold
  | drop
deriving DecidableEq, Repr

/-- R8, R261: the data effect of the named illegal opcodes (ILLEGAL_SEMANTICS). -/
inductive IllegalSemantics
  | stub
  | reference
deriving DecidableEq, Repr

/-- R8, R336: the nametable mirroring configuration, a closed set of four (R388 (3)). -/
inductive Mirroring
  | vertical
  | horizontal
  | single
  | four
deriving DecidableEq, Repr

/-- R308: the devices a bus slot can refer to: the Memory device in its flat (R303) or banked (R304)
configuration, and the PPU (R330). DEDUCED, log 15: one of each. -/
inductive Device
  | flat
  | banked
  | ppu
deriving DecidableEq, Repr

/-- One entry of PLATFORM_MAP (R8): a device, its first slot and how many slots it fills. -/
structure MapEntry where
  device : Device
  firstSlot : Nat
  count : Nat
deriving DecidableEq, Repr

/-- PLATFORM_MAP (R8, R75). -/
abbrev PlatformMap := List MapEntry

/-- The open launch parameters of R8 that are neither store contents nor the platform map. They are fixed when
the machine is built; no step changes them, and a claim quantifies over them or fixes them as a premise. -/
structure Launch where
  /-- RESET_P: the value of P after Reset. -/
  resetP : Byte
  /-- IRQ_MASKED_POLICY. -/
  irqMasked : IrqMaskedPolicy
  /-- ILLEGAL_SEMANTICS. -/
  illegal : IllegalSemantics
  /-- MIRRORING. -/
  mirroring : Mirroring
  /-- FRAME_WIDTH. -/
  frameWidth : Nat
  /-- FRAME_HEIGHT. -/
  frameHeight : Nat
deriving DecidableEq, Repr

namespace Config

/-- STACK_BASE's page (R6, R24): the stack is page one. -/
def stackPage : Byte := 0x01
/-- VEC_NMI, low byte's address (R6); the high byte is at the next address. -/
def vecNmi : Word := 0xFFFA
/-- VEC_RESET (R6). -/
def vecReset : Word := 0xFFFC
/-- VEC_IRQ (R6), also BRK's vector (R242). -/
def vecIrq : Word := 0xFFFE
/-- INT_ACK_CYCLES (R6, R376). -/
def intAckCycles : Nat := 7
/-- RESET_CYCLES (R7, D9). -/
def resetCycles : Nat := 0
/-- RESET_S (R6). -/
def resetS : Byte := 0xFF
/-- KIL_BASE_CYCLES (R7, D16). -/
def kilBaseCycles : Nat := 2
/-- FLAT_SIZE (R7, D19). -/
def flatSize : Nat := 65536
/-- RAM_SIZE (R6). -/
def ramSize : Nat := 2048
/-- ROM_BANK_SIZE (R6). -/
def romBankSize : Nat := 16384
/-- Two tables of PATTERN_TABLE_SIZE bytes (R6, R39). -/
def chrSize : Nat := 8192
/-- NAMETABLE_SIZE (R6). -/
def nametableSize : Nat := 1024
/-- NT_PHYS (R6, R40): 2048, or 4096 for four-screen. -/
def nametableRam : Mirroring → Nat
  | .four => 4096
  | _ => 2048
/-- PALETTE_SIZE (R6). -/
def paletteSize : Nat := 32
/-- OAM_SIZE (R6). -/
def oamSize : Nat := 256
/-- PPU_CYCLES_PER_LINE (R7, D23). -/
def ppuCyclesPerLine : Nat := 262
/-- PPU_LINES_PER_FRAME (R7, D23). -/
def ppuLinesPerFrame : Nat := 341
/-- PPU_FRAME_CLOCKS (R6): 341 x 262. -/
def ppuFrameClocks : Nat := 89342
/-- PPU_CLOCKS_PER_CPU_CLOCK (R6, R405). -/
def ppuClocksPerCpuClock : Nat := 3

/-- What a byte of any store that nothing has written holds. DESIGN CHOICE, log 7: R47 leaves INIT_* open. -/
def blankByte : Byte := 0x00

/-- DESIGN CHOICE and PRESUMED values, logs 1, 2, 3, 5 and 6: the launch parameters of `State.reset`. -/
def defaultLaunch : Launch where
  resetP := 0x00
  irqMasked := .hold
  illegal := .stub
  mirroring := .vertical
  frameWidth := 256
  frameHeight := 240

/-- R75: the default PLATFORM_MAP (DESIGN CHOICE of the reset state, log 4). -/
def defaultMap : PlatformMap :=
  [⟨.banked, 0, 2⟩, ⟨.ppu, 2, 2⟩, ⟨.banked, 8, 8⟩]

/-- FREE VALUE, log 10. PPU_REG_READ (R8, R332): the byte a read in the PPU window returns, from the PPU state, the
register index and the number of the draw. The PPU state is `reg`, `chr`, `nt`, `pal` and `oam`, all that a PPU clock
does not change: no byte a program observes depends on how many PPU clocks have run (R78, R341, R405). It has no body:
nothing is known of it. -/
opaque ppuRegRead (reg : Vector Byte 8) (chr nt pal oam : List (Nat × Byte)) (index : BitVec 3) (draw : Nat) : Byte

/-- FREE VALUE, log 11. PIXEL (R8, R342): the value of the pixel painted at the given draw. -/
opaque pixelValue (draw : Nat) : Byte

/-- FREE VALUE, log 11. PIXEL (R8, R342): the position painted at the given draw. It may depend on the counters too,
as R342's "some function of (cycle, scanline) that the source does not give" does. -/
opaque pixelPlace (draw cycle : Nat) (scanline : Int) : Nat

/-- FREE VALUE, log 12. R261: the undetermined result of an unstable illegal opcode under `reference`. -/
opaque unstableByte : Nat → Byte

end Config
end Sys2Proof
end

