-- ==== Sys2Proof/Machine/State.lean ====
section
/-! DEFINITION. The state of the machine (10_state.md) as plain data, the reasons a step can stop, and the state after
reset. -/

namespace Sys2Proof.Machine

/-- A byte store: the cells that differ from `Config.blankByte`, as (index, byte) pairs with strictly rising indexes. -/
abbrev Memory := List Host.Cell

/-- R36, R37, R310: the high program bank and its flag HIGH_BANK. -/
inductive HighBank
  /-- HIGH_BANK = alias: the high window repeats the low bank. -/
  | mirrored
  /-- HIGH_BANK = own: an independent bank. -/
  | own (bank : Memory)
deriving DecidableEq, Repr

/-- The PPU's state (R38 to R44). -/
structure Ppu where
  /-- R38: the register file. -/
  reg : Vector Byte 8
  /-- R39: pattern memory, 8192 bytes. -/
  chr : Memory
  /-- R40: nametable RAM, 2048 bytes, or 4096 under four-screen mirroring. -/
  nt : Memory
  /-- R41: palette RAM, 32 bytes of which four are never stored. -/
  pal : Memory
  /-- R42, R351: object attribute memory, 256 bytes, touched by no rule. -/
  oam : Memory
  /-- R43: the two frame buffers, by pixel position. -/
  frame : Vector Memory 2
  /-- R43: the index of the buffer being painted. -/
  active : Fin 2
  /-- R44: position counter, 0 to 261. -/
  cycle : Nat
  /-- R44: line counter, -1 to 339. -/
  scanline : Int
  /-- The MODEL's own: how many pixel values have been drawn (log 13). -/
  pixelDraws : Nat
deriving DecidableEq, Repr

/-- The state of the machine: the CPU (R20), the Bus (R35), the Memory devices (R36), the PPU (R38 to R44), the launch
parameters (R8), and two fields of the model's own. -/
structure State where
  /-- R21: the accumulator A. -/
  a : Byte
  /-- R22: index register X. -/
  x : Byte
  /-- R23: index register Y. -/
  y : Byte
  /-- R24: the stack pointer S, an offset into page one. -/
  sp : Byte
  /-- R26: the status register P. -/
  p : Byte
  /-- R25: the program counter PC. -/
  pc : Word
  /-- R32: `cycles_left`, 0 exactly at an instruction boundary. -/
  cyclesLeft : Nat
  /-- R33: `nmi_pending`. -/
  nmiPending : Bool
  /-- R33: `irq_pending`. -/
  irqPending : Bool
  /-- R35: the slot table. -/
  slots : Vector (Option Device) 16
  /-- R36, R303: the flat Memory device's store, 65536 bytes. -/
  flat : Memory
  /-- R36: the banked Memory device's internal RAM, 2048 bytes. -/
  ram : Memory
  /-- R36: its low program bank, 16384 bytes. -/
  bankLo : Memory
  /-- R36: its high program bank. -/
  bankHi : HighBank
  /-- R38 to R44: the PPU. -/
  ppu : Ppu
  /-- The MODEL's own (log 14): whether a PPU clock of the last system tick returned true (R340, R343). -/
  frameDone : Bool
  /-- The MODEL's own (log 13): how many free bytes the CPU side has drawn. -/
  draws : Nat
  /-- R8: the open launch parameters; no step changes them. -/
  launch : Launch
deriving DecidableEq, Repr

/-- A storage cell of the CPU's address space, after device translation (R77 (1): "same storage cell"). -/
inductive Cell
  /-- R303: `store[k]`. -/
  | flat (k : Nat)
  /-- R304: `ram[k]`. -/
  | ram (k : Nat)
  /-- R305: `bank_lo[k]`. -/
  | bankLo (k : Nat)
  /-- R305: `bank_hi[k]` of an independent high bank. -/
  | bankHi (k : Nat)
  /-- R330: `reg[i]`. -/
  | reg (i : BitVec 3)
deriving DecidableEq, Repr

/-- A storage cell of the video address space (R335). -/
inductive VideoCell
  | chr (k : Nat)
  | nt (k : Nat)
  | pal (k : Nat)
deriving DecidableEq, Repr

/-- The one-bit flags of P (R26); the two-bit field P.B has accessors of its own. -/
inductive Flag
  | c
  | z
  | i
  | d
  | v
  | n
deriving DecidableEq, Repr

/-- The kinds of `raise Interrupt(kind)` (R14, R388 (2): a closed set). -/
inductive InterruptKind
  | brk
  | irq
  | nmi
deriving DecidableEq, Repr

/-- Why the machine can stop with a fault. No CPU instruction raises one (R379, R388). -/
inductive Fault
  /-- R388 (4): a video address outside the four regions. Raised by `videoRead` and `videoWrite` only, which no
  instruction reaches. Safe: the spec calls the condition fatal. -/
  | videoAddress (v : Word)
deriving DecidableEq, Repr

/-- Why the machine can refuse. -/
inductive Refusal
  /-- Raised by `exec` for an instruction without a meaning. Safe. No arm raises it. -/
  | notModelled (mnemonic : String)
  /-- Raised by `fetch` when the bytes at PC do not decode. Safe. It never happens, since the opcode map is
  total (R106). -/
  | undecodable (opcode : Byte)
deriving DecidableEq, Repr

/-- The outcome of an instruction or of a step. -/
abbrev Result := Host.Outcome State Fault Refusal

/-- R47: the PPU at construction. Counters and `active` are the spec's; the contents of the stores are the log's
(7, 8, 11). -/
def Ppu.initial : Ppu where
  reg := .replicate 8 Config.blankByte
  chr := []
  nt := []
  pal := []
  oam := []
  frame := .replicate 2 []
  active := 0
  cycle := 0
  scanline := -1
  pixelDraws := 0

/-- The machine right after Reset (R46, R400), under the default platform map (R75) and with no store written. PC is
the vector word at 0xFFFC, which reads 0x0000 in blank stores (log 7); P is RESET_P (log 1). -/
def State.reset : State where
  a := 0x00
  x := 0x00
  y := 0x00
  sp := Config.resetS
  p := Config.defaultLaunch.resetP
  pc := 0x0000
  cyclesLeft := Config.resetCycles
  nmiPending := false
  irqPending := false
  slots := #v[some .banked, some .banked, some .ppu, some .ppu, none, none, none, none,
    some .banked, some .banked, some .banked, some .banked, some .banked, some .banked, some .banked, some .banked]
  flat := []
  ram := []
  bankLo := []
  bankHi := .mirrored
  ppu := .initial
  frameDone := false
  draws := 0
  launch := Config.defaultLaunch

end Sys2Proof.Machine
end

