-- ==== Sys2Proof/Machine/Flags.lean ====
section
/-! DEFINITION. The status register's fields (R26) and every flag computation of the spec: SetZN (R13), AddWithCarry
(R185), Compare (R186), the shifts (R200 to R203), BIT (R178) and ARR (R272). -/

namespace Sys2Proof.Machine

/-- R26: the bit of P that holds a flag. -/
def Flag.bit : Flag → Nat
  | .c => 0
  | .z => 1
  | .i => 2
  | .d => 3
  | .v => 6
  | .n => 7

/-- R26: the byte with only a flag's bit set. -/
def Flag.mask : Flag → Byte
  | .c => 0x01
  | .z => 0x02
  | .i => 0x04
  | .d => 0x08
  | .v => 0x40
  | .n => 0x80

/-- Read a flag of a status byte. -/
def getFlag (f : Flag) (p : Byte) : Bool := p.getLsbD f.bit

/-- R12: `P.f <- b`, the other fields unchanged. -/
def setFlag (f : Flag) (b : Bool) (p : Byte) : Byte :=
  if b then p ||| f.mask else p &&& ~~~f.mask

/-- R26: the two-bit Break field, bits 5:4. -/
def getBreak (p : Byte) : BitVec 2 := p.extractLsb' 4 2

/-- R30: write the Break field, the other fields unchanged. -/
def setBreak (b : BitVec 2) (p : Byte) : Byte := (p &&& 0xCF) ||| (b.setWidth 8 <<< 4)

/-- R13: `SetZN(v)`. -/
def setZN (v : Byte) (p : Byte) : Byte := setFlag .n v.msb (setFlag .z (v == 0) p)

/-- R185: the sum of AddWithCarry on unbounded integers, 0 to 511. -/
def addSum (a m : Byte) (carry : Bool) : Nat := a.toNat + m.toNat + carry.toNat

/-- R185: the byte AddWithCarry leaves in A. -/
def addResult (a m : Byte) (carry : Bool) : Byte := BitVec.ofNat 8 (addSum a m carry)

/-- R185: `t > 255`. -/
def addCarry (a m : Byte) (carry : Bool) : Bool := 255 < addSum a m carry

/-- R185: `((~(A ^ m)) & (A ^ t) & 0x80) != 0`. -/
def addOverflow (a m : Byte) (carry : Bool) : Bool :=
  ((~~~(a ^^^ m)) &&& (a ^^^ addResult a m carry) &&& 0x80) != 0

/-- R185: P after AddWithCarry of `m` to `a`. -/
def addFlags (a m : Byte) (p : Byte) : Byte :=
  let carry := getFlag .c p
  setZN (addResult a m carry) (setFlag .v (addOverflow a m carry) (setFlag .c (addCarry a m carry) p))

/-- R186: P after Compare(r, m). -/
def compareFlags (r m : Byte) (p : Byte) : Byte :=
  setFlag .n (r - m).msb (setFlag .z (r == m) (setFlag .c (m.toNat ≤ r.toNat) p))

/-- R178: P after BIT of `m` against `a`. -/
def bitFlags (a m : Byte) (p : Byte) : Byte :=
  setFlag .v (m.getLsbD 6) (setFlag .n (m.getLsbD 7) (setFlag .z (a &&& m == 0) p))

/-- The four one-bit shifts and rotates (R200 to R203). -/
inductive ShiftKind
  | asl
  | lsr
  | rol
  | ror
deriving DecidableEq, Repr

/-- R200 to R203: the shifted byte, from the operand and the old Carry. -/
def shiftResult : ShiftKind → Byte → Bool → Byte
  | .asl, m, _ => m <<< 1
  | .lsr, m, _ => m >>> 1
  | .rol, m, carry => (m <<< 1) ||| (BitVec.ofBool carry).setWidth 8
  | .ror, m, carry => (m >>> 1) ||| ((BitVec.ofBool carry).setWidth 8 <<< 7)

/-- R200 to R203: the bit shifted out, into Carry. -/
def shiftCarry : ShiftKind → Byte → Bool
  | .asl, m | .rol, m => m.getLsbD 7
  | .lsr, m | .ror, m => m.getLsbD 0

/-- R200 to R203: P after shifting `m`. -/
def shiftFlags (k : ShiftKind) (m : Byte) (p : Byte) : Byte :=
  setZN (shiftResult k m (getFlag .c p)) (setFlag .c (shiftCarry k m) p)

/-- R272: the byte ARR leaves in A, from `A & m` and the old Carry. -/
def arrResult (t : Byte) (carry : Bool) : Byte := shiftResult .ror t carry

/-- R272: P after ARR, whose C and V come from bits 6 and 5 of the new A. -/
def arrFlags (r : Byte) (p : Byte) : Byte :=
  setFlag .v (r.getLsbD 6 ^^ r.getLsbD 5) (setFlag .c (r.getLsbD 6) (setZN r p))

/-- R274: P after AXS: Carry from the unsigned comparison of `A & X` with `m`, Z and N from the difference. -/
def axsFlags (t m : Byte) (p : Byte) : Byte := setZN (t - m) (setFlag .c (m.toNat ≤ t.toNat) p)

/-- A flag of the state's P. -/
def State.flag (s : State) (f : Flag) : Bool := getFlag f s.p

/-- The Break field of the state's P. -/
def State.brk (s : State) : BitVec 2 := getBreak s.p

end Sys2Proof.Machine
end

