-- ==== Sys2Proof/Machine/Ops.lean ====
section
/-! DEFINITION. The shared operations: byte stores, the Bus (R60 to R66) and the devices behind it (R303 to R306,
R330 to R332), the stack (R27, R28), taking an exception (R376, R242) and returning from one (R243), and the cycle
charge (R404). -/

namespace Sys2Proof.Machine

/-! ### Byte stores -/

/-- The byte at an index; an unlisted index reads as `Config.blankByte` (log 7). -/
def Memory.get : Memory → Nat → Byte
  | [], _ => Config.blankByte
  | (j, b) :: m, k => if j = k then b else Memory.get m k

/-- Put a byte at an index, in rising order of index. -/
def Memory.insert : Memory → Nat → Byte → Memory
  | [], k, v => [(k, v)]
  | (j, b) :: m, k, v =>
    if j < k then (j, b) :: Memory.insert m k v
    else if j = k then (k, v) :: m
    else (k, v) :: (j, b) :: m

/-- Drop the entries of an index. -/
def Memory.erase : Memory → Nat → Memory
  | [], _ => []
  | (j, b) :: m, k => if j = k then Memory.erase m k else (j, b) :: Memory.erase m k

/-- Write a byte, keeping the canonical form: writing the blank byte removes the entry. -/
def Memory.set (m : Memory) (k : Nat) (v : Byte) : Memory :=
  if v = Config.blankByte then m.erase k else m.insert k v

/-- The indexes of a store all exceed a bound and rise strictly. -/
def Memory.risesAbove : Memory → Nat → Bool
  | [], _ => true
  | (j, _) :: m, lower => lower ≤ j && Memory.risesAbove m (j + 1)

/-- The canonical form of a store of `size` bytes: strictly rising indexes below `size`, no blank entry. -/
def Memory.wf (m : Memory) (size : Nat) : Bool :=
  m.risesAbove 0 && m.all fun c => c.1 < size && c.2 != Config.blankByte

/-- A store with the given first bytes (a loader's copy, R312), from index `k` on. -/
def Memory.ofBytes : Nat → List Byte → Memory
  | _, [] => []
  | k, b :: bs => if b = Config.blankByte then Memory.ofBytes (k + 1) bs else (k, b) :: Memory.ofBytes (k + 1) bs

/-! ### The Bus -/

/-- R62: `slotof(a)`, the high nibble of the address. -/
def slotOf (a : Word) : BitVec 4 := a.extractLsb' 12 4

/-- R35, R62: the device that answers an address. -/
def State.deviceAt (s : State) (a : Word) : Option Device := s.slots.get (slotOf a).toFin

/-- R304, R305: the banked Memory device's translation. -/
def bankedCell (high : HighBank) (a : Word) : Cell :=
  if a &&& 0xE000 = 0 then .ram (a &&& 0x07FF).toNat
  else if a &&& 0x4000 = 0 then .bankLo (a &&& 0x3FFF).toNat
  else match high with
    | .mirrored => .bankLo (a &&& 0x3FFF).toNat
    | .own _ => .bankHi (a &&& 0x3FFF).toNat

/-- R63, R302, R303, R330: the storage cell an address reaches; none in an empty slot. The device gets the whole
address. -/
def State.translate (s : State) (a : Word) : Option Cell :=
  match s.deviceAt a with
  | none => none
  | some .flat => some (.flat a.toNat)
  | some .banked => some (bankedCell s.bankHi a)
  | some .ppu => some (.reg (a.extractLsb' 0 3))

/-- The byte a storage cell holds. -/
def State.readCell (s : State) : Cell → Byte
  | .flat k => s.flat.get k
  | .ram k => s.ram.get k
  | .bankLo k => s.bankLo.get k
  | .bankHi k =>
    match s.bankHi with
    | .own m => m.get k
    | .mirrored => s.bankLo.get k
  | .reg i => s.ppu.reg.get i.toFin

/-- Change the byte a storage cell holds. -/
def State.writeCell (s : State) (v : Byte) : Cell → State
  | .flat k => { s with flat := s.flat.set k v }
  | .ram k => { s with ram := s.ram.set k v }
  | .bankLo k => { s with bankLo := s.bankLo.set k v }
  | .bankHi k =>
    match s.bankHi with
    | .own m => { s with bankHi := .own (m.set k v) }
    | .mirrored => { s with bankLo := s.bankLo.set k v }
  | .reg i => { s with ppu := { s.ppu with reg := s.ppu.reg.set i.toNat v i.isLt } }

/-- The byte stored at an address: the contents of its cell, 0x00 in an empty slot (R64). In the PPU window this is
the register's contents, which is not what a Bus read returns (R332). -/
def State.stored (s : State) (a : Word) : Byte :=
  match s.translate a with
  | none => 0x00
  | some c => s.readCell c

/-- R332, log 10: the free byte that a read of PPU register `i` returns at a draw. -/
def Ppu.readRegister (u : Ppu) (i : BitVec 3) (draw : Nat) : Byte :=
  Config.ppuRegRead u.reg u.chr u.nt u.pal u.oam i draw

/-- R64, R332: the byte `MemRead(a, 1)` returns: the stored byte, or a free byte in the PPU window. -/
def State.peek (s : State) (a : Word) : Byte :=
  match s.translate a with
  | some (.reg i) => s.ppu.readRegister i s.draws
  | _ => s.stored a

/-- R73: what `MemRead(a, 1)` does to the state: nothing, but for the count of free bytes drawn. -/
def State.afterRead (s : State) (a : Word) : State :=
  match s.translate a with
  | some (.reg _) => { s with draws := s.draws + 1 }
  | _ => s

/-- R13, R64: `MemRead(a, 1)`. -/
def busRead (a : Word) (s : State) : Byte × State := (s.peek a, s.afterRead a)

/-- R13, R65, R306, R331: `MemWrite(a, 1, v)`; dropped in an empty slot. -/
def busWrite (a : Word) (v : Byte) (s : State) : State :=
  match s.translate a with
  | none => s
  | some c => s.writeCell v c

/-- R67, R71: a little-endian word read as two bytes, the low one first. -/
def readPair (aLow aHigh : Word) (s : State) : Word × State :=
  let (l, s) := busRead aLow s
  let (h, s) := busRead aHigh s
  (joinBytes h l, s)

/-! ### The stack -/

/-- R24: the stack address `0x0100 + S`. -/
def stackAddress (sp : Byte) : Word := joinBytes Config.stackPage sp

/-- R27: `Push(v)`. -/
def push (v : Byte) (s : State) : State :=
  let s := busWrite (stackAddress s.sp) v s
  { s with sp := s.sp - 1 }

/-- R28: `Pull()`. -/
def pull (s : State) : Byte × State :=
  let s := { s with sp := s.sp + 1 }
  busRead (stackAddress s.sp) s

/-- R67: push a word, high byte first. -/
def pushWord (w : Word) (s : State) : State := push (loByte w) (push (hiByte w) s)

/-- R212, R243: pull a word, low byte first. -/
def pullWord (s : State) : Word × State :=
  let (l, s) := pull s
  let (h, s) := pull s
  (joinBytes h l, s)

/-! ### Exceptions -/

/-- R30, R242, R376: the Break pattern written before P is pushed. -/
def InterruptKind.breakPattern : InterruptKind → BitVec 2
  | .brk => 0b11
  | .irq | .nmi => 0b10

/-- R370, R376: the address of the vector's low byte. -/
def InterruptKind.vector : InterruptKind → Word
  | .nmi => Config.vecNmi
  | .irq | .brk => Config.vecIrq

/-- R242, R376: the return address: BRK skips a padding byte. -/
def InterruptKind.returnAddress : InterruptKind → Word → Word
  | .brk, pc => pc + 1
  | .irq, pc | .nmi, pc => pc

/-- R376: `pending[kind] <- 0`; BRK touches no latch (R242). -/
def clearLatch : InterruptKind → State → State
  | .brk, s => s
  | .irq, s => { s with irqPending := false }
  | .nmi, s => { s with nmiPending := false }

/-- R376, R242: taking an exception. PC and then P, with the kind's Break pattern written in the live register first,
are pushed; I is set; PC is loaded from the kind's vector; the kind's latch is cleared. -/
def takeException (kind : InterruptKind) (s : State) : State :=
  let s := pushWord (kind.returnAddress s.pc) s
  let s := { s with p := setBreak kind.breakPattern s.p }
  let s := push s.p s
  let s := { s with p := setFlag .i true s.p }
  let (target, s) := readPair kind.vector (kind.vector + 1) s
  clearLatch kind { s with pc := target }

/-- R243, R380: returning from an exception: P, then PC low, then PC high are pulled. -/
def returnFromException (s : State) : State :=
  let (p, s) := pull s
  let (target, s) := pullWord { s with p := p }
  { s with pc := target }

/-- R373: NMI is accepted at a boundary. -/
def State.acceptsNmi (s : State) : Bool := s.nmiPending

/-- R373, R374: IRQ is accepted at a boundary where NMI is not. -/
def State.acceptsIrq (s : State) : Bool := !s.nmiPending && s.irqPending && !s.flag .i

/-- R373: a masked IRQ at a boundary where an instruction is fetched: held or dropped. -/
def settleMaskedIrq (s : State) : State :=
  match s.launch.irqMasked with
  | .hold => s
  | .drop => if s.irqPending && s.flag .i then { s with irqPending := false } else s

/-! ### The cycle charge -/

/-- R404: `cycles_left <- base + (xm & xi)`. -/
def charge (base : Nat) (xm xi : Bool) (s : State) : State :=
  { s with cyclesLeft := base + (xm && xi).toNat }

end Sys2Proof.Machine
end

