-- ==== Sys2Proof/Machine/Operands.lean ====
section
/-! DEFINITION. The addressing modes (R130 to R145) and the shapes an instruction's execution takes over them. Every
definition here starts where the spec's instruction rules start (R15): PC already points past the operand bytes. -/

namespace Sys2Proof.Machine

/-- What an addressing mode produces (R130): the effective address, the extra-cycle request, and the state after the
mode's own reads. -/
structure Resolved where
  ea : Word
  xm : Bool
  state : State
deriving DecidableEq, Repr

/-- R137, R138: Absolute Indexed adds to the low byte only; there is no carry into the high byte. -/
def indexedNoCarry (base : Word) (index : Byte) : Word := joinBytes (hiByte base) (loByte base + index)

/-- R137, R138, R141: the extra-cycle request: the low byte of the final address is below the index. -/
def lowByteCarried (ea : Word) (index : Byte) : Bool := decide ((loByte ea).toNat < index.toNat)

/-- R140, R141: a pointer in page zero; its second byte wraps in page zero (D12). -/
def readZeroPagePointer (z : Byte) (s : State) : Word × State :=
  readPair (zeroExtend z) (zeroExtend (z + 1)) s

/-- R131 to R142: the effective address of an operand. -/
def resolve (o : Operand) (s : State) : Resolved :=
  match o with
  | .imm _ => ⟨s.pc - 1, false, s⟩
  | .zp z => ⟨zeroExtend z, false, s⟩
  | .zpx z => ⟨zeroExtend (z + s.x), false, s⟩
  | .zpy z => ⟨zeroExtend (z + s.y), false, s⟩
  | .abs w => ⟨w, false, s⟩
  | .abx w =>
    let ea := indexedNoCarry w s.x
    ⟨ea, lowByteCarried ea s.x, s⟩
  | .aby w =>
    let ea := indexedNoCarry w s.y
    ⟨ea, lowByteCarried ea s.y, s⟩
  | .ind w =>
    let (target, s) := readPair w (joinBytes (hiByte w) (loByte w + 1)) s
    ⟨target, false, s⟩
  | .izx z =>
    let (ea, s) := readZeroPagePointer (z + s.x) s
    ⟨ea, false, s⟩
  | .izy z =>
    let (pointer, s) := readZeroPagePointer z s
    let ea := pointer + zeroExtend s.y
    ⟨ea, lowByteCarried ea s.y, s⟩
  | .rel o =>
    let ea := s.pc + signExtend o
    ⟨ea, hiByte ea != hiByte s.pc, s⟩

/-- What reading an operand produces: the byte, the mode's extra-cycle request, and the state after the reads. -/
structure Loaded where
  value : Byte
  xm : Bool
  state : State
deriving DecidableEq, Repr

/-- R143: the byte `MemRead(ea, 1)` returns. For Immediate that is the operand byte the instruction carries, which
fetching found without a read of its own (R132; DEDUCED, log 16). -/
def operandByte (o : Operand) (r : Resolved) : Byte :=
  match o with
  | .imm b => b
  | _ => r.state.peek r.ea

/-- R132, R143: `m <- MemRead(ea, 1)`. -/
def load (o : Operand) (s : State) : Loaded :=
  let r := resolve o s
  ⟨operandByte o r, r.xm, r.state.afterRead r.ea⟩

/-- An Implicit instruction (R131): an effect and a fixed cycle count. -/
def execImplied (base : Nat) (effect : State → State) (s : State) : Result :=
  .next (charge base false false (effect s))

/-- An instruction that reads its operand. `xi` is its extra-cycle request (R404). -/
def execRead (o : Operand) (base : Nat) (xi : Bool) (effect : Byte → State → State) (s : State) : Result :=
  let l := load o s
  .next (charge base l.xm xi (effect l.value l.state))

/-- An instruction that stores a byte at its effective address; a store never takes the extra cycle (R153). -/
def execStore (o : Operand) (base : Nat) (value : State → Byte) (s : State) : Result :=
  let r := resolve o s
  .next (charge base r.xm false (busWrite r.ea (value r.state) r.state))

/-- A read-modify-write instruction (R72, R204): one read and one write at the effective address. `value` is the byte
written, `effect` what else changes; both see the state and the byte before the write. -/
def execModify (o : Operand) (base : Nat) (value : Byte → State → Byte) (effect : Byte → State → State) (s : State) :
    Result :=
  let r := resolve o s
  let m := r.state.peek r.ea
  let s := r.state.afterRead r.ea
  .next (charge base r.xm false (busWrite r.ea (value m s) (effect m s)))

/-- An instruction that resolves its operand and does nothing with it (R260, R281). -/
def execSkip (o : Operand) (base : Nat) (xi : Bool) (s : State) : Result :=
  let r := resolve o s
  .next (charge base r.xm xi r.state)

/-- R261: a named illegal opcode: under `stub` only its addressing mode runs; under `reference` the given operation
does. -/
def bySemantics (o : Operand) (base : Nat) (xi : Bool) (reference : State → Result) (s : State) : Result :=
  match s.launch.illegal with
  | .stub => execSkip o base xi s
  | .reference => reference s

end Sys2Proof.Machine
end

