-- ==== Sys2Proof/Machine/LoadStore.lean ====
section
/-! DEFINITION. Loads, stores and register transfers (R150 to R161). -/

namespace Sys2Proof.Machine

/-- R150: A <- m with SetZN(m). -/
def setA (m : Byte) (s : State) : State := { s with a := m, p := setZN m s.p }

/-- R151: X <- m with SetZN(m). -/
def setX (m : Byte) (s : State) : State := { s with x := m, p := setZN m s.p }

/-- R152: Y <- m with SetZN(m). -/
def setY (m : Byte) (s : State) : State := { s with y := m, p := setZN m s.p }

/-- R161: S <- X; the one transfer that sets no flag. -/
def setStackFromX (s : State) : State := { s with sp := s.x }

/-! ### LDA (R150) -/

/-- Opcode 0xA1 (R150, R140). -/
def execLdaIzx (z : Byte) (s : State) : Result := execRead (.izx z) 6 true setA s

/-- Opcode 0xA5 (R150, R133). -/
def execLdaZp (z : Byte) (s : State) : Result := execRead (.zp z) 3 true setA s

/-- Opcode 0xA9 (R150, R132). -/
def execLdaImm (b : Byte) (s : State) : Result := execRead (.imm b) 2 true setA s

/-- Opcode 0xAD (R150, R136). -/
def execLdaAbs (w : Word) (s : State) : Result := execRead (.abs w) 4 true setA s

/-- Opcode 0xB1 (R150, R141). -/
def execLdaIzy (z : Byte) (s : State) : Result := execRead (.izy z) 5 true setA s

/-- Opcode 0xB5 (R150, R134). -/
def execLdaZpx (z : Byte) (s : State) : Result := execRead (.zpx z) 4 true setA s

/-- Opcode 0xB9 (R150, R138). -/
def execLdaAby (w : Word) (s : State) : Result := execRead (.aby w) 4 true setA s

/-- Opcode 0xBD (R150, R137). -/
def execLdaAbx (w : Word) (s : State) : Result := execRead (.abx w) 4 true setA s

/-! ### LDX (R151) -/

/-- Opcode 0xA2 (R151, R132). -/
def execLdxImm (b : Byte) (s : State) : Result := execRead (.imm b) 2 true setX s

/-- Opcode 0xA6 (R151, R133). -/
def execLdxZp (z : Byte) (s : State) : Result := execRead (.zp z) 3 true setX s

/-- Opcode 0xAE (R151, R136). -/
def execLdxAbs (w : Word) (s : State) : Result := execRead (.abs w) 4 true setX s

/-- Opcode 0xB6 (R151, R135). -/
def execLdxZpy (z : Byte) (s : State) : Result := execRead (.zpy z) 4 true setX s

/-- Opcode 0xBE (R151, R138). -/
def execLdxAby (w : Word) (s : State) : Result := execRead (.aby w) 4 true setX s

/-! ### LDY (R152) -/

/-- Opcode 0xA0 (R152, R132). -/
def execLdyImm (b : Byte) (s : State) : Result := execRead (.imm b) 2 true setY s

/-- Opcode 0xA4 (R152, R133). -/
def execLdyZp (z : Byte) (s : State) : Result := execRead (.zp z) 3 true setY s

/-- Opcode 0xAC (R152, R136). -/
def execLdyAbs (w : Word) (s : State) : Result := execRead (.abs w) 4 true setY s

/-- Opcode 0xB4 (R152, R134). -/
def execLdyZpx (z : Byte) (s : State) : Result := execRead (.zpx z) 4 true setY s

/-- Opcode 0xBC (R152, R137). -/
def execLdyAbx (w : Word) (s : State) : Result := execRead (.abx w) 4 true setY s

/-! ### STA (R153) -/

/-- Opcode 0x81 (R153, R140). -/
def execStaIzx (z : Byte) (s : State) : Result := execStore (.izx z) 6 (fun t => t.a) s

/-- Opcode 0x85 (R153, R133). -/
def execStaZp (z : Byte) (s : State) : Result := execStore (.zp z) 3 (fun t => t.a) s

/-- Opcode 0x8D (R153, R136). -/
def execStaAbs (w : Word) (s : State) : Result := execStore (.abs w) 4 (fun t => t.a) s

/-- Opcode 0x91 (R153, R141). -/
def execStaIzy (z : Byte) (s : State) : Result := execStore (.izy z) 6 (fun t => t.a) s

/-- Opcode 0x95 (R153, R134). -/
def execStaZpx (z : Byte) (s : State) : Result := execStore (.zpx z) 4 (fun t => t.a) s

/-- Opcode 0x99 (R153, R138). -/
def execStaAby (w : Word) (s : State) : Result := execStore (.aby w) 5 (fun t => t.a) s

/-- Opcode 0x9D (R153, R137). -/
def execStaAbx (w : Word) (s : State) : Result := execStore (.abx w) 5 (fun t => t.a) s

/-! ### STX (R154) -/

/-- Opcode 0x86 (R154, R133). -/
def execStxZp (z : Byte) (s : State) : Result := execStore (.zp z) 3 (fun t => t.x) s

/-- Opcode 0x8E (R154, R136). -/
def execStxAbs (w : Word) (s : State) : Result := execStore (.abs w) 4 (fun t => t.x) s

/-- Opcode 0x96 (R154, R135). -/
def execStxZpy (z : Byte) (s : State) : Result := execStore (.zpy z) 4 (fun t => t.x) s

/-! ### STY (R155) -/

/-- Opcode 0x84 (R155, R133). -/
def execStyZp (z : Byte) (s : State) : Result := execStore (.zp z) 3 (fun t => t.y) s

/-- Opcode 0x8C (R155, R136). -/
def execStyAbs (w : Word) (s : State) : Result := execStore (.abs w) 4 (fun t => t.y) s

/-- Opcode 0x94 (R155, R134). -/
def execStyZpx (z : Byte) (s : State) : Result := execStore (.zpx z) 4 (fun t => t.y) s

/-! ### TAX (R156) -/

/-- Opcode 0xAA (R156). -/
def execTax (s : State) : Result := execImplied 2 (fun t => setX t.a t) s

/-! ### TAY (R157) -/

/-- Opcode 0xA8 (R157). -/
def execTay (s : State) : Result := execImplied 2 (fun t => setY t.a t) s

/-! ### TXA (R158) -/

/-- Opcode 0x8A (R158). -/
def execTxa (s : State) : Result := execImplied 2 (fun t => setA t.x t) s

/-! ### TYA (R159) -/

/-- Opcode 0x98 (R159). -/
def execTya (s : State) : Result := execImplied 2 (fun t => setA t.y t) s

/-! ### TSX (R160) -/

/-- Opcode 0xBA (R160). -/
def execTsx (s : State) : Result := execImplied 2 (fun t => setX t.sp t) s

/-! ### TXS (R161) -/

/-- Opcode 0x9A (R161). -/
def execTxs (s : State) : Result := execImplied 2 setStackFromX s

end Sys2Proof.Machine
end

