-- ==== Sys2Proof/Machine/Arith.lean ====
section
/-! DEFINITION. Arithmetic, logic, compares, increments and decrements (R170 to R188). The Decimal flag is not read (R188). -/

namespace Sys2Proof.Machine

/-- R185: AddWithCarry(m), the one adder of the machine. -/
def addWithCarry (m : Byte) (s : State) : State :=
  { s with a := addResult s.a m (s.flag .c), p := addFlags s.a m s.p }

/-- R171: SBC is AddWithCarry of the operand's complement. -/
def subtractWithCarry (m : Byte) (s : State) : State := addWithCarry (m ^^^ 0xFF) s

/-- R186: Compare(r, m). -/
def compareWith (r m : Byte) (s : State) : State := { s with p := compareFlags r m s.p }

/-- R178: BIT; A is not changed. -/
def bitTest (m : Byte) (s : State) : State := { s with p := bitFlags s.a m s.p }

/-- R179, R180: the flags of a value written to memory. -/
def setZNOf (v : Byte) (s : State) : State := { s with p := setZN v s.p }

/-! ### ADC (R170) -/

/-- Opcode 0x61 (R170, R140). -/
def execAdcIzx (z : Byte) (s : State) : Result := execRead (.izx z) 6 true addWithCarry s

/-- Opcode 0x65 (R170, R133). -/
def execAdcZp (z : Byte) (s : State) : Result := execRead (.zp z) 3 true addWithCarry s

/-- Opcode 0x69 (R170, R132). -/
def execAdcImm (b : Byte) (s : State) : Result := execRead (.imm b) 2 true addWithCarry s

/-- Opcode 0x6D (R170, R136). -/
def execAdcAbs (w : Word) (s : State) : Result := execRead (.abs w) 4 true addWithCarry s

/-- Opcode 0x71 (R170, R141). -/
def execAdcIzy (z : Byte) (s : State) : Result := execRead (.izy z) 5 true addWithCarry s

/-- Opcode 0x75 (R170, R134). -/
def execAdcZpx (z : Byte) (s : State) : Result := execRead (.zpx z) 4 true addWithCarry s

/-- Opcode 0x79 (R170, R138). -/
def execAdcAby (w : Word) (s : State) : Result := execRead (.aby w) 4 true addWithCarry s

/-- Opcode 0x7D (R170, R137). -/
def execAdcAbx (w : Word) (s : State) : Result := execRead (.abx w) 4 true addWithCarry s

/-! ### SBC (R171) -/

/-- Opcode 0xE1 (R171, R140). -/
def execSbcIzx (z : Byte) (s : State) : Result := execRead (.izx z) 6 true subtractWithCarry s

/-- Opcode 0xE5 (R171, R133). -/
def execSbcZp (z : Byte) (s : State) : Result := execRead (.zp z) 3 true subtractWithCarry s

/-- Opcode 0xE9 (R171, R132). -/
def execSbcImm (b : Byte) (s : State) : Result := execRead (.imm b) 2 true subtractWithCarry s

/-- Opcode 0xED (R171, R136). -/
def execSbcAbs (w : Word) (s : State) : Result := execRead (.abs w) 4 true subtractWithCarry s

/-- Opcode 0xF1 (R171, R141). -/
def execSbcIzy (z : Byte) (s : State) : Result := execRead (.izy z) 5 true subtractWithCarry s

/-- Opcode 0xF5 (R171, R134). -/
def execSbcZpx (z : Byte) (s : State) : Result := execRead (.zpx z) 4 true subtractWithCarry s

/-- Opcode 0xF9 (R171, R138). -/
def execSbcAby (w : Word) (s : State) : Result := execRead (.aby w) 4 true subtractWithCarry s

/-- Opcode 0xFD (R171, R137). -/
def execSbcAbx (w : Word) (s : State) : Result := execRead (.abx w) 4 true subtractWithCarry s

/-! ### AND (R172) -/

/-- Opcode 0x21 (R172, R140). -/
def execAndIzx (z : Byte) (s : State) : Result := execRead (.izx z) 6 true (fun m t => setA (t.a &&& m) t) s

/-- Opcode 0x25 (R172, R133). -/
def execAndZp (z : Byte) (s : State) : Result := execRead (.zp z) 3 true (fun m t => setA (t.a &&& m) t) s

/-- Opcode 0x29 (R172, R132). -/
def execAndImm (b : Byte) (s : State) : Result := execRead (.imm b) 2 true (fun m t => setA (t.a &&& m) t) s

/-- Opcode 0x2D (R172, R136). -/
def execAndAbs (w : Word) (s : State) : Result := execRead (.abs w) 4 true (fun m t => setA (t.a &&& m) t) s

/-- Opcode 0x31 (R172, R141). -/
def execAndIzy (z : Byte) (s : State) : Result := execRead (.izy z) 5 true (fun m t => setA (t.a &&& m) t) s

/-- Opcode 0x35 (R172, R134). -/
def execAndZpx (z : Byte) (s : State) : Result := execRead (.zpx z) 4 true (fun m t => setA (t.a &&& m) t) s

/-- Opcode 0x39 (R172, R138). -/
def execAndAby (w : Word) (s : State) : Result := execRead (.aby w) 4 true (fun m t => setA (t.a &&& m) t) s

/-- Opcode 0x3D (R172, R137). -/
def execAndAbx (w : Word) (s : State) : Result := execRead (.abx w) 4 true (fun m t => setA (t.a &&& m) t) s

/-! ### ORA (R173) -/

/-- Opcode 0x01 (R173, R140). -/
def execOraIzx (z : Byte) (s : State) : Result := execRead (.izx z) 6 true (fun m t => setA (t.a ||| m) t) s

/-- Opcode 0x05 (R173, R133). -/
def execOraZp (z : Byte) (s : State) : Result := execRead (.zp z) 3 true (fun m t => setA (t.a ||| m) t) s

/-- Opcode 0x09 (R173, R132). -/
def execOraImm (b : Byte) (s : State) : Result := execRead (.imm b) 2 true (fun m t => setA (t.a ||| m) t) s

/-- Opcode 0x0D (R173, R136). -/
def execOraAbs (w : Word) (s : State) : Result := execRead (.abs w) 4 true (fun m t => setA (t.a ||| m) t) s

/-- Opcode 0x11 (R173, R141). -/
def execOraIzy (z : Byte) (s : State) : Result := execRead (.izy z) 5 true (fun m t => setA (t.a ||| m) t) s

/-- Opcode 0x15 (R173, R134). -/
def execOraZpx (z : Byte) (s : State) : Result := execRead (.zpx z) 4 true (fun m t => setA (t.a ||| m) t) s

/-- Opcode 0x19 (R173, R138). -/
def execOraAby (w : Word) (s : State) : Result := execRead (.aby w) 4 true (fun m t => setA (t.a ||| m) t) s

/-- Opcode 0x1D (R173, R137). -/
def execOraAbx (w : Word) (s : State) : Result := execRead (.abx w) 4 true (fun m t => setA (t.a ||| m) t) s

/-! ### EOR (R174) -/

/-- Opcode 0x41 (R174, R140). -/
def execEorIzx (z : Byte) (s : State) : Result := execRead (.izx z) 6 true (fun m t => setA (t.a ^^^ m) t) s

/-- Opcode 0x45 (R174, R133). -/
def execEorZp (z : Byte) (s : State) : Result := execRead (.zp z) 3 true (fun m t => setA (t.a ^^^ m) t) s

/-- Opcode 0x49 (R174, R132). -/
def execEorImm (b : Byte) (s : State) : Result := execRead (.imm b) 2 true (fun m t => setA (t.a ^^^ m) t) s

/-- Opcode 0x4D (R174, R136). -/
def execEorAbs (w : Word) (s : State) : Result := execRead (.abs w) 4 true (fun m t => setA (t.a ^^^ m) t) s

/-- Opcode 0x51 (R174, R141). -/
def execEorIzy (z : Byte) (s : State) : Result := execRead (.izy z) 5 true (fun m t => setA (t.a ^^^ m) t) s

/-- Opcode 0x55 (R174, R134). -/
def execEorZpx (z : Byte) (s : State) : Result := execRead (.zpx z) 4 true (fun m t => setA (t.a ^^^ m) t) s

/-- Opcode 0x59 (R174, R138). -/
def execEorAby (w : Word) (s : State) : Result := execRead (.aby w) 4 true (fun m t => setA (t.a ^^^ m) t) s

/-- Opcode 0x5D (R174, R137). -/
def execEorAbx (w : Word) (s : State) : Result := execRead (.abx w) 4 true (fun m t => setA (t.a ^^^ m) t) s

/-! ### BIT (R178) -/

/-- Opcode 0x24 (R178, R133). -/
def execBitZp (z : Byte) (s : State) : Result := execRead (.zp z) 3 false bitTest s

/-- Opcode 0x2C (R178, R136). -/
def execBitAbs (w : Word) (s : State) : Result := execRead (.abs w) 4 false bitTest s

/-! ### CMP (R175) -/

/-- Opcode 0xC1 (R175, R140). -/
def execCmpIzx (z : Byte) (s : State) : Result := execRead (.izx z) 6 true (fun m t => compareWith t.a m t) s

/-- Opcode 0xC5 (R175, R133). -/
def execCmpZp (z : Byte) (s : State) : Result := execRead (.zp z) 3 true (fun m t => compareWith t.a m t) s

/-- Opcode 0xC9 (R175, R132). -/
def execCmpImm (b : Byte) (s : State) : Result := execRead (.imm b) 2 true (fun m t => compareWith t.a m t) s

/-- Opcode 0xCD (R175, R136). -/
def execCmpAbs (w : Word) (s : State) : Result := execRead (.abs w) 4 true (fun m t => compareWith t.a m t) s

/-- Opcode 0xD1 (R175, R141). -/
def execCmpIzy (z : Byte) (s : State) : Result := execRead (.izy z) 5 true (fun m t => compareWith t.a m t) s

/-- Opcode 0xD5 (R175, R134). -/
def execCmpZpx (z : Byte) (s : State) : Result := execRead (.zpx z) 4 true (fun m t => compareWith t.a m t) s

/-- Opcode 0xD9 (R175, R138). -/
def execCmpAby (w : Word) (s : State) : Result := execRead (.aby w) 4 true (fun m t => compareWith t.a m t) s

/-- Opcode 0xDD (R175, R137). -/
def execCmpAbx (w : Word) (s : State) : Result := execRead (.abx w) 4 true (fun m t => compareWith t.a m t) s

/-! ### CPX (R176) -/

/-- Opcode 0xE0 (R176, R132). -/
def execCpxImm (b : Byte) (s : State) : Result := execRead (.imm b) 2 false (fun m t => compareWith t.x m t) s

/-- Opcode 0xE4 (R176, R133). -/
def execCpxZp (z : Byte) (s : State) : Result := execRead (.zp z) 3 false (fun m t => compareWith t.x m t) s

/-- Opcode 0xEC (R176, R136). -/
def execCpxAbs (w : Word) (s : State) : Result := execRead (.abs w) 4 false (fun m t => compareWith t.x m t) s

/-! ### CPY (R177) -/

/-- Opcode 0xC0 (R177, R132). -/
def execCpyImm (b : Byte) (s : State) : Result := execRead (.imm b) 2 false (fun m t => compareWith t.y m t) s

/-- Opcode 0xC4 (R177, R133). -/
def execCpyZp (z : Byte) (s : State) : Result := execRead (.zp z) 3 false (fun m t => compareWith t.y m t) s

/-- Opcode 0xCC (R177, R136). -/
def execCpyAbs (w : Word) (s : State) : Result := execRead (.abs w) 4 false (fun m t => compareWith t.y m t) s

/-! ### INC (R179) -/

/-- Opcode 0xE6 (R179, R133). -/
def execIncZp (z : Byte) (s : State) : Result := execModify (.zp z) 5 (fun m _ => m + 1) (fun m t => setZNOf (m + 1) t) s

/-- Opcode 0xEE (R179, R136). -/
def execIncAbs (w : Word) (s : State) : Result := execModify (.abs w) 6 (fun m _ => m + 1) (fun m t => setZNOf (m + 1) t) s

/-- Opcode 0xF6 (R179, R134). -/
def execIncZpx (z : Byte) (s : State) : Result := execModify (.zpx z) 6 (fun m _ => m + 1) (fun m t => setZNOf (m + 1) t) s

/-- Opcode 0xFE (R179, R137). -/
def execIncAbx (w : Word) (s : State) : Result := execModify (.abx w) 7 (fun m _ => m + 1) (fun m t => setZNOf (m + 1) t) s

/-! ### DEC (R180) -/

/-- Opcode 0xC6 (R180, R133). -/
def execDecZp (z : Byte) (s : State) : Result := execModify (.zp z) 5 (fun m _ => m - 1) (fun m t => setZNOf (m - 1) t) s

/-- Opcode 0xCE (R180, R136). -/
def execDecAbs (w : Word) (s : State) : Result := execModify (.abs w) 6 (fun m _ => m - 1) (fun m t => setZNOf (m - 1) t) s

/-- Opcode 0xD6 (R180, R134). -/
def execDecZpx (z : Byte) (s : State) : Result := execModify (.zpx z) 6 (fun m _ => m - 1) (fun m t => setZNOf (m - 1) t) s

/-- Opcode 0xDE (R180, R137). -/
def execDecAbx (w : Word) (s : State) : Result := execModify (.abx w) 7 (fun m _ => m - 1) (fun m t => setZNOf (m - 1) t) s

/-! ### INX (R181) -/

/-- Opcode 0xE8 (R181). -/
def execInx (s : State) : Result := execImplied 2 (fun t => setX (t.x + 1) t) s

/-! ### INY (R182) -/

/-- Opcode 0xC8 (R182). -/
def execIny (s : State) : Result := execImplied 2 (fun t => setY (t.y + 1) t) s

/-! ### DEX (R183) -/

/-- Opcode 0xCA (R183). -/
def execDex (s : State) : Result := execImplied 2 (fun t => setX (t.x - 1) t) s

/-! ### DEY (R184) -/

/-- Opcode 0x88 (R184). -/
def execDey (s : State) : Result := execImplied 2 (fun t => setY (t.y - 1) t) s

end Sys2Proof.Machine
end

