-- ==== Sys2Proof/Machine/Control.lean ====
section
/-! DEFINITION. Jumps, subroutine calls and branches (R210 to R223). -/

namespace Sys2Proof.Machine

/-- R210: PC <- ea. -/
def execJump (o : Operand) (base : Nat) (s : State) : Result :=
  let r := resolve o s
  .next (charge base r.xm false { r.state with pc := r.ea })

/-- R211: push the address of the call's last byte, high byte first, then PC <- ea. -/
def execCall (o : Operand) (base : Nat) (s : State) : Result :=
  let r := resolve o s
  .next (charge base r.xm false { pushWord (r.state.pc - 1) r.state with pc := r.ea })

/-- R212: pull PC low, then PC high, and add 1. -/
def returnFromCall (s : State) : State :=
  let (target, s) := pullWord s
  { s with pc := target + 1 }

/-- R221: a branch taken when a flag has a value; it requests the extra cycle exactly when it is taken. -/
def execBranch (f : Flag) (value : Bool) (o : Byte) (base : Nat) (s : State) : Result :=
  let r := resolve (.rel o) s
  let taken := s.flag f == value
  .next (charge base r.xm taken (if taken then { r.state with pc := r.ea } else r.state))

/-! ### JMP (R210) -/

/-- Opcode 0x4C (R210, R136). -/
def execJmpAbs (w : Word) (s : State) : Result := execJump (.abs w) 3 s

/-- Opcode 0x6C (R210, R139). -/
def execJmpInd (w : Word) (s : State) : Result := execJump (.ind w) 5 s

/-! ### JSR (R211) -/

/-- Opcode 0x20 (R211, R136). -/
def execJsrAbs (w : Word) (s : State) : Result := execCall (.abs w) 6 s

/-! ### RTS (R212) -/

/-- Opcode 0x60 (R212). -/
def execRts (s : State) : Result := execImplied 6 returnFromCall s

/-! ### BCC (R213) -/

/-- Opcode 0x90 (R213, R142). -/
def execBccRel (o : Byte) (s : State) : Result := execBranch .c false o 2 s

/-! ### BCS (R214) -/

/-- Opcode 0xB0 (R214, R142). -/
def execBcsRel (o : Byte) (s : State) : Result := execBranch .c true o 2 s

/-! ### BEQ (R215) -/

/-- Opcode 0xF0 (R215, R142). -/
def execBeqRel (o : Byte) (s : State) : Result := execBranch .z true o 2 s

/-! ### BNE (R216) -/

/-- Opcode 0xD0 (R216, R142). -/
def execBneRel (o : Byte) (s : State) : Result := execBranch .z false o 2 s

/-! ### BMI (R217) -/

/-- Opcode 0x30 (R217, R142). -/
def execBmiRel (o : Byte) (s : State) : Result := execBranch .n true o 2 s

/-! ### BPL (R218) -/

/-- Opcode 0x10 (R218, R142). -/
def execBplRel (o : Byte) (s : State) : Result := execBranch .n false o 2 s

/-! ### BVC (R219) -/

/-- Opcode 0x50 (R219, R142). -/
def execBvcRel (o : Byte) (s : State) : Result := execBranch .v false o 2 s

/-! ### BVS (R220) -/

/-- Opcode 0x70 (R220, R142). -/
def execBvsRel (o : Byte) (s : State) : Result := execBranch .v true o 2 s

end Sys2Proof.Machine
end

