-- ==== Sys2Proof/Machine/Shift.lean ====
section
/-! DEFINITION. Shifts and rotates by one bit (R200 to R204). -/

namespace Sys2Proof.Machine

/-- R204: the shifted memory byte. -/
def shiftedByte (k : ShiftKind) (m : Byte) (s : State) : Byte := shiftResult k m (s.flag .c)

/-- R200 to R203: the flags of a shift of `m`. -/
def shiftEffect (k : ShiftKind) (m : Byte) (s : State) : State := { s with p := shiftFlags k m s.p }

/-- R204: the accumulator form: A is both source and destination. -/
def shiftA (k : ShiftKind) (s : State) : State :=
  { s with a := shiftResult k s.a (s.flag .c), p := shiftFlags k s.a s.p }

/-! ### ASL (R200) -/

/-- Opcode 0x06 (R200, R133). -/
def execAslZp (z : Byte) (s : State) : Result := execModify (.zp z) 5 (shiftedByte .asl) (shiftEffect .asl) s

/-- Opcode 0x0A (R200). -/
def execAslAcc (s : State) : Result := execImplied 2 (shiftA .asl) s

/-- Opcode 0x0E (R200, R136). -/
def execAslAbs (w : Word) (s : State) : Result := execModify (.abs w) 6 (shiftedByte .asl) (shiftEffect .asl) s

/-- Opcode 0x16 (R200, R134). -/
def execAslZpx (z : Byte) (s : State) : Result := execModify (.zpx z) 6 (shiftedByte .asl) (shiftEffect .asl) s

/-- Opcode 0x1E (R200, R137). -/
def execAslAbx (w : Word) (s : State) : Result := execModify (.abx w) 7 (shiftedByte .asl) (shiftEffect .asl) s

/-! ### LSR (R201) -/

/-- Opcode 0x46 (R201, R133). -/
def execLsrZp (z : Byte) (s : State) : Result := execModify (.zp z) 5 (shiftedByte .lsr) (shiftEffect .lsr) s

/-- Opcode 0x4A (R201). -/
def execLsrAcc (s : State) : Result := execImplied 2 (shiftA .lsr) s

/-- Opcode 0x4E (R201, R136). -/
def execLsrAbs (w : Word) (s : State) : Result := execModify (.abs w) 6 (shiftedByte .lsr) (shiftEffect .lsr) s

/-- Opcode 0x56 (R201, R134). -/
def execLsrZpx (z : Byte) (s : State) : Result := execModify (.zpx z) 6 (shiftedByte .lsr) (shiftEffect .lsr) s

/-- Opcode 0x5E (R201, R137). -/
def execLsrAbx (w : Word) (s : State) : Result := execModify (.abx w) 7 (shiftedByte .lsr) (shiftEffect .lsr) s

/-! ### ROL (R202) -/

/-- Opcode 0x26 (R202, R133). -/
def execRolZp (z : Byte) (s : State) : Result := execModify (.zp z) 5 (shiftedByte .rol) (shiftEffect .rol) s

/-- Opcode 0x2A (R202). -/
def execRolAcc (s : State) : Result := execImplied 2 (shiftA .rol) s

/-- Opcode 0x2E (R202, R136). -/
def execRolAbs (w : Word) (s : State) : Result := execModify (.abs w) 6 (shiftedByte .rol) (shiftEffect .rol) s

/-- Opcode 0x36 (R202, R134). -/
def execRolZpx (z : Byte) (s : State) : Result := execModify (.zpx z) 6 (shiftedByte .rol) (shiftEffect .rol) s

/-- Opcode 0x3E (R202, R137). -/
def execRolAbx (w : Word) (s : State) : Result := execModify (.abx w) 7 (shiftedByte .rol) (shiftEffect .rol) s

/-! ### ROR (R203) -/

/-- Opcode 0x66 (R203, R133). -/
def execRorZp (z : Byte) (s : State) : Result := execModify (.zp z) 5 (shiftedByte .ror) (shiftEffect .ror) s

/-- Opcode 0x6A (R203). -/
def execRorAcc (s : State) : Result := execImplied 2 (shiftA .ror) s

/-- Opcode 0x6E (R203, R136). -/
def execRorAbs (w : Word) (s : State) : Result := execModify (.abs w) 6 (shiftedByte .ror) (shiftEffect .ror) s

/-- Opcode 0x76 (R203, R134). -/
def execRorZpx (z : Byte) (s : State) : Result := execModify (.zpx z) 6 (shiftedByte .ror) (shiftEffect .ror) s

/-- Opcode 0x7E (R203, R137). -/
def execRorAbx (w : Word) (s : State) : Result := execModify (.abx w) 7 (shiftedByte .ror) (shiftEffect .ror) s

end Sys2Proof.Machine
end

