-- ==== Sys2Proof/Machine/Illegal.lean ====
section
/-! DEFINITION. The illegal opcodes (R260 to R282). A named one does nothing beyond its addressing mode under ILLEGAL_SEMANTICS = stub and its reference operation under `reference` (R261); KIL, the illegal NOPs and SBC 0xEB do not depend on the parameter. -/

namespace Sys2Proof.Machine

/-- R262, R263, R264: the flags and A of a shift whose result is then combined into A. -/
def shiftThen (k : ShiftKind) (combine : Byte → Byte → Byte) (m : Byte) (s : State) : State :=
  let v := shiftedByte k m s
  setA (combine s.a v) (shiftEffect k m s)

/-- R265: the rotate right, then AddWithCarry of the rotated byte with the Carry the rotate produced. -/
def rotateThenAdd (m : Byte) (s : State) : State :=
  addWithCarry (shiftedByte .ror m s) (shiftEffect .ror m s)

/-- R267: A and X <- m with SetZN(m). -/
def setAX (m : Byte) (s : State) : State := { s with a := m, x := m, p := setZN m s.p }

/-- R267, log 12: LAX in Immediate format under `reference`: the loaded value is a free byte. -/
def unstableLoadAX (s : State) : State :=
  setAX (Config.unstableByte s.draws) { s with draws := s.draws + 1 }

/-- R270: A <- A & m with SetZN(A), then C <- N. -/
def andCopyNToC (m : Byte) (s : State) : State :=
  let r := s.a &&& m
  { s with a := r, p := setFlag .c r.msb (setZN r s.p) }

/-- R271: A <- (A & m) >> 1; C is the bit shifted out. -/
def andShiftRight (m : Byte) (s : State) : State :=
  let t := s.a &&& m
  { s with a := t >>> 1, p := setZN (t >>> 1) (setFlag .c (t.getLsbD 0) s.p) }

/-- R272: A <- (A & m) rotated right through C, with ARR's own C and V. -/
def andRotateRight (m : Byte) (s : State) : State :=
  let r := arrResult (s.a &&& m) (s.flag .c)
  { s with a := r, p := arrFlags r s.p }

/-- R273, log 12: XAA under `reference`: A, Z and N are free values. -/
def unstableXaa (s : State) : State :=
  let f := Config.unstableByte (s.draws + 1)
  { s with
    a := Config.unstableByte s.draws
    p := setFlag .n (f.getLsbD 1) (setFlag .z (f.getLsbD 0) s.p)
    draws := s.draws + 2 }

/-- R274: X <- (A & X) - m. -/
def subtractToX (m : Byte) (s : State) : State :=
  let t := s.a &&& s.x
  { s with x := t - m, p := axsFlags t m s.p }

/-- R279: A, X and S <- m & S with SetZN. -/
def setAXS (m : Byte) (s : State) : State :=
  let t := m &&& s.sp
  { s with a := t, x := t, sp := t, p := setZN t s.p }

/-- DESIGN CHOICE, log 12. R278: S <- A & X, the value the rule quotes as the usual one; R261 and U2 leave it open. -/
def setStackFromAX (s : State) : State := { s with sp := s.a &&& s.x }

/-- R275 to R278, log 12: an unstable store: the byte written at the effective address is free. -/
def execUnstableStore (o : Operand) (base : Nat) (effect : State → State) (s : State) : Result :=
  let r := resolve o s
  let v := Config.unstableByte r.state.draws
  let s := effect { r.state with draws := r.state.draws + 1 }
  .next (charge base r.xm false (busWrite r.ea v s))

/-! ### SLO (R262) -/

/-- Opcode 0x03 (R262, R140). -/
def execSloIzx (z : Byte) (s : State) : Result := bySemantics (.izx z) 8 false (execModify (.izx z) 8 (shiftedByte .asl) (shiftThen .asl (· ||| ·))) s

/-- Opcode 0x07 (R262, R133). -/
def execSloZp (z : Byte) (s : State) : Result := bySemantics (.zp z) 5 false (execModify (.zp z) 5 (shiftedByte .asl) (shiftThen .asl (· ||| ·))) s

/-- Opcode 0x0F (R262, R136). -/
def execSloAbs (w : Word) (s : State) : Result := bySemantics (.abs w) 6 false (execModify (.abs w) 6 (shiftedByte .asl) (shiftThen .asl (· ||| ·))) s

/-- Opcode 0x13 (R262, R141). -/
def execSloIzy (z : Byte) (s : State) : Result := bySemantics (.izy z) 8 false (execModify (.izy z) 8 (shiftedByte .asl) (shiftThen .asl (· ||| ·))) s

/-- Opcode 0x17 (R262, R134). -/
def execSloZpx (z : Byte) (s : State) : Result := bySemantics (.zpx z) 6 false (execModify (.zpx z) 6 (shiftedByte .asl) (shiftThen .asl (· ||| ·))) s

/-- Opcode 0x1B (R262, R138). -/
def execSloAby (w : Word) (s : State) : Result := bySemantics (.aby w) 7 false (execModify (.aby w) 7 (shiftedByte .asl) (shiftThen .asl (· ||| ·))) s

/-- Opcode 0x1F (R262, R137). -/
def execSloAbx (w : Word) (s : State) : Result := bySemantics (.abx w) 7 false (execModify (.abx w) 7 (shiftedByte .asl) (shiftThen .asl (· ||| ·))) s

/-! ### RLA (R263) -/

/-- Opcode 0x23 (R263, R140). -/
def execRlaIzx (z : Byte) (s : State) : Result := bySemantics (.izx z) 8 false (execModify (.izx z) 8 (shiftedByte .rol) (shiftThen .rol (· &&& ·))) s

/-- Opcode 0x27 (R263, R133). -/
def execRlaZp (z : Byte) (s : State) : Result := bySemantics (.zp z) 5 false (execModify (.zp z) 5 (shiftedByte .rol) (shiftThen .rol (· &&& ·))) s

/-- Opcode 0x2F (R263, R136). -/
def execRlaAbs (w : Word) (s : State) : Result := bySemantics (.abs w) 6 false (execModify (.abs w) 6 (shiftedByte .rol) (shiftThen .rol (· &&& ·))) s

/-- Opcode 0x33 (R263, R141). -/
def execRlaIzy (z : Byte) (s : State) : Result := bySemantics (.izy z) 8 false (execModify (.izy z) 8 (shiftedByte .rol) (shiftThen .rol (· &&& ·))) s

/-- Opcode 0x37 (R263, R134). -/
def execRlaZpx (z : Byte) (s : State) : Result := bySemantics (.zpx z) 6 false (execModify (.zpx z) 6 (shiftedByte .rol) (shiftThen .rol (· &&& ·))) s

/-- Opcode 0x3B (R263, R138). -/
def execRlaAby (w : Word) (s : State) : Result := bySemantics (.aby w) 7 false (execModify (.aby w) 7 (shiftedByte .rol) (shiftThen .rol (· &&& ·))) s

/-- Opcode 0x3F (R263, R137). -/
def execRlaAbx (w : Word) (s : State) : Result := bySemantics (.abx w) 7 false (execModify (.abx w) 7 (shiftedByte .rol) (shiftThen .rol (· &&& ·))) s

/-! ### SRE (R264) -/

/-- Opcode 0x43 (R264, R140). -/
def execSreIzx (z : Byte) (s : State) : Result := bySemantics (.izx z) 8 false (execModify (.izx z) 8 (shiftedByte .lsr) (shiftThen .lsr (· ^^^ ·))) s

/-- Opcode 0x47 (R264, R133). -/
def execSreZp (z : Byte) (s : State) : Result := bySemantics (.zp z) 5 false (execModify (.zp z) 5 (shiftedByte .lsr) (shiftThen .lsr (· ^^^ ·))) s

/-- Opcode 0x4F (R264, R136). -/
def execSreAbs (w : Word) (s : State) : Result := bySemantics (.abs w) 6 false (execModify (.abs w) 6 (shiftedByte .lsr) (shiftThen .lsr (· ^^^ ·))) s

/-- Opcode 0x53 (R264, R141). -/
def execSreIzy (z : Byte) (s : State) : Result := bySemantics (.izy z) 8 false (execModify (.izy z) 8 (shiftedByte .lsr) (shiftThen .lsr (· ^^^ ·))) s

/-- Opcode 0x57 (R264, R134). -/
def execSreZpx (z : Byte) (s : State) : Result := bySemantics (.zpx z) 6 false (execModify (.zpx z) 6 (shiftedByte .lsr) (shiftThen .lsr (· ^^^ ·))) s

/-- Opcode 0x5B (R264, R138). -/
def execSreAby (w : Word) (s : State) : Result := bySemantics (.aby w) 7 false (execModify (.aby w) 7 (shiftedByte .lsr) (shiftThen .lsr (· ^^^ ·))) s

/-- Opcode 0x5F (R264, R137). -/
def execSreAbx (w : Word) (s : State) : Result := bySemantics (.abx w) 7 false (execModify (.abx w) 7 (shiftedByte .lsr) (shiftThen .lsr (· ^^^ ·))) s

/-! ### RRA (R265) -/

/-- Opcode 0x63 (R265, R140). -/
def execRraIzx (z : Byte) (s : State) : Result := bySemantics (.izx z) 8 false (execModify (.izx z) 8 (shiftedByte .ror) rotateThenAdd) s

/-- Opcode 0x67 (R265, R133). -/
def execRraZp (z : Byte) (s : State) : Result := bySemantics (.zp z) 5 false (execModify (.zp z) 5 (shiftedByte .ror) rotateThenAdd) s

/-- Opcode 0x6F (R265, R136). -/
def execRraAbs (w : Word) (s : State) : Result := bySemantics (.abs w) 6 false (execModify (.abs w) 6 (shiftedByte .ror) rotateThenAdd) s

/-- Opcode 0x73 (R265, R141). -/
def execRraIzy (z : Byte) (s : State) : Result := bySemantics (.izy z) 8 false (execModify (.izy z) 8 (shiftedByte .ror) rotateThenAdd) s

/-- Opcode 0x77 (R265, R134). -/
def execRraZpx (z : Byte) (s : State) : Result := bySemantics (.zpx z) 6 false (execModify (.zpx z) 6 (shiftedByte .ror) rotateThenAdd) s

/-- Opcode 0x7B (R265, R138). -/
def execRraAby (w : Word) (s : State) : Result := bySemantics (.aby w) 7 false (execModify (.aby w) 7 (shiftedByte .ror) rotateThenAdd) s

/-- Opcode 0x7F (R265, R137). -/
def execRraAbx (w : Word) (s : State) : Result := bySemantics (.abx w) 7 false (execModify (.abx w) 7 (shiftedByte .ror) rotateThenAdd) s

/-! ### DCP (R268) -/

/-- Opcode 0xC3 (R268, R140). -/
def execDcpIzx (z : Byte) (s : State) : Result := bySemantics (.izx z) 8 false (execModify (.izx z) 8 (fun m _ => m - 1) (fun m t => compareWith t.a (m - 1) t)) s

/-- Opcode 0xC7 (R268, R133). -/
def execDcpZp (z : Byte) (s : State) : Result := bySemantics (.zp z) 5 false (execModify (.zp z) 5 (fun m _ => m - 1) (fun m t => compareWith t.a (m - 1) t)) s

/-- Opcode 0xCF (R268, R136). -/
def execDcpAbs (w : Word) (s : State) : Result := bySemantics (.abs w) 6 false (execModify (.abs w) 6 (fun m _ => m - 1) (fun m t => compareWith t.a (m - 1) t)) s

/-- Opcode 0xD3 (R268, R141). -/
def execDcpIzy (z : Byte) (s : State) : Result := bySemantics (.izy z) 8 false (execModify (.izy z) 8 (fun m _ => m - 1) (fun m t => compareWith t.a (m - 1) t)) s

/-- Opcode 0xD7 (R268, R134). -/
def execDcpZpx (z : Byte) (s : State) : Result := bySemantics (.zpx z) 6 false (execModify (.zpx z) 6 (fun m _ => m - 1) (fun m t => compareWith t.a (m - 1) t)) s

/-- Opcode 0xDB (R268, R138). -/
def execDcpAby (w : Word) (s : State) : Result := bySemantics (.aby w) 7 false (execModify (.aby w) 7 (fun m _ => m - 1) (fun m t => compareWith t.a (m - 1) t)) s

/-- Opcode 0xDF (R268, R137). -/
def execDcpAbx (w : Word) (s : State) : Result := bySemantics (.abx w) 7 false (execModify (.abx w) 7 (fun m _ => m - 1) (fun m t => compareWith t.a (m - 1) t)) s

/-! ### ISC (R269) -/

/-- Opcode 0xE3 (R269, R140). -/
def execIscIzx (z : Byte) (s : State) : Result := bySemantics (.izx z) 8 false (execModify (.izx z) 8 (fun m _ => m + 1) (fun m t => subtractWithCarry (m + 1) t)) s

/-- Opcode 0xE7 (R269, R133). -/
def execIscZp (z : Byte) (s : State) : Result := bySemantics (.zp z) 5 false (execModify (.zp z) 5 (fun m _ => m + 1) (fun m t => subtractWithCarry (m + 1) t)) s

/-- Opcode 0xEF (R269, R136). -/
def execIscAbs (w : Word) (s : State) : Result := bySemantics (.abs w) 6 false (execModify (.abs w) 6 (fun m _ => m + 1) (fun m t => subtractWithCarry (m + 1) t)) s

/-- Opcode 0xF3 (R269, R141). -/
def execIscIzy (z : Byte) (s : State) : Result := bySemantics (.izy z) 8 false (execModify (.izy z) 8 (fun m _ => m + 1) (fun m t => subtractWithCarry (m + 1) t)) s

/-- Opcode 0xF7 (R269, R134). -/
def execIscZpx (z : Byte) (s : State) : Result := bySemantics (.zpx z) 6 false (execModify (.zpx z) 6 (fun m _ => m + 1) (fun m t => subtractWithCarry (m + 1) t)) s

/-- Opcode 0xFB (R269, R138). -/
def execIscAby (w : Word) (s : State) : Result := bySemantics (.aby w) 7 false (execModify (.aby w) 7 (fun m _ => m + 1) (fun m t => subtractWithCarry (m + 1) t)) s

/-- Opcode 0xFF (R269, R137). -/
def execIscAbx (w : Word) (s : State) : Result := bySemantics (.abx w) 7 false (execModify (.abx w) 7 (fun m _ => m + 1) (fun m t => subtractWithCarry (m + 1) t)) s

/-! ### SAX (R266) -/

/-- Opcode 0x83 (R266, R140). -/
def execSaxIzx (z : Byte) (s : State) : Result := bySemantics (.izx z) 6 false (execStore (.izx z) 6 (fun t => t.a &&& t.x)) s

/-- Opcode 0x87 (R266, R133). -/
def execSaxZp (z : Byte) (s : State) : Result := bySemantics (.zp z) 3 false (execStore (.zp z) 3 (fun t => t.a &&& t.x)) s

/-- Opcode 0x8F (R266, R136). -/
def execSaxAbs (w : Word) (s : State) : Result := bySemantics (.abs w) 4 false (execStore (.abs w) 4 (fun t => t.a &&& t.x)) s

/-- Opcode 0x97 (R266, R135). -/
def execSaxZpy (z : Byte) (s : State) : Result := bySemantics (.zpy z) 4 false (execStore (.zpy z) 4 (fun t => t.a &&& t.x)) s

/-! ### LAX (R267) -/

/-- Opcode 0xA3 (R267, R140). -/
def execLaxIzx (z : Byte) (s : State) : Result := bySemantics (.izx z) 6 true (execRead (.izx z) 6 true setAX) s

/-- Opcode 0xA7 (R267, R133). -/
def execLaxZp (z : Byte) (s : State) : Result := bySemantics (.zp z) 3 true (execRead (.zp z) 3 true setAX) s

/-- Opcode 0xAB (R267, R132). -/
def execLaxImm (b : Byte) (s : State) : Result := bySemantics (.imm b) 2 true (execRead (.imm b) 2 true (fun _ t => unstableLoadAX t)) s

/-- Opcode 0xAF (R267, R136). -/
def execLaxAbs (w : Word) (s : State) : Result := bySemantics (.abs w) 4 true (execRead (.abs w) 4 true setAX) s

/-- Opcode 0xB3 (R267, R141). -/
def execLaxIzy (z : Byte) (s : State) : Result := bySemantics (.izy z) 5 true (execRead (.izy z) 5 true setAX) s

/-- Opcode 0xB7 (R267, R135). -/
def execLaxZpy (z : Byte) (s : State) : Result := bySemantics (.zpy z) 4 true (execRead (.zpy z) 4 true setAX) s

/-- Opcode 0xBF (R267, R138). -/
def execLaxAby (w : Word) (s : State) : Result := bySemantics (.aby w) 4 true (execRead (.aby w) 4 true setAX) s

/-! ### ANC (R270) -/

/-- Opcode 0x0B (R270, R132). -/
def execAncImm0B (b : Byte) (s : State) : Result := bySemantics (.imm b) 2 false (execRead (.imm b) 2 false andCopyNToC) s

/-- Opcode 0x2B (R270, R132). -/
def execAncImm2B (b : Byte) (s : State) : Result := bySemantics (.imm b) 2 false (execRead (.imm b) 2 false andCopyNToC) s

/-! ### ALR (R271) -/

/-- Opcode 0x4B (R271, R132). -/
def execAlrImm (b : Byte) (s : State) : Result := bySemantics (.imm b) 2 false (execRead (.imm b) 2 false andShiftRight) s

/-! ### ARR (R272) -/

/-- Opcode 0x6B (R272, R132). -/
def execArrImm (b : Byte) (s : State) : Result := bySemantics (.imm b) 2 false (execRead (.imm b) 2 false andRotateRight) s

/-! ### XAA (R273) -/

/-- Opcode 0x8B (R273, R132). -/
def execXaaImm (b : Byte) (s : State) : Result := bySemantics (.imm b) 2 false (execRead (.imm b) 2 false (fun _ t => unstableXaa t)) s

/-! ### AXS (R274) -/

/-- Opcode 0xCB (R274, R132). -/
def execAxsImm (b : Byte) (s : State) : Result := bySemantics (.imm b) 2 false (execRead (.imm b) 2 false subtractToX) s

/-! ### AHX (R275) -/

/-- Opcode 0x93 (R275, R141). -/
def execAhxIzy (z : Byte) (s : State) : Result := bySemantics (.izy z) 6 false (execUnstableStore (.izy z) 6 id) s

/-- Opcode 0x9F (R275, R138). -/
def execAhxAby (w : Word) (s : State) : Result := bySemantics (.aby w) 5 false (execUnstableStore (.aby w) 5 id) s

/-! ### SHY (R276) -/

/-- Opcode 0x9C (R276, R137). -/
def execShyAbx (w : Word) (s : State) : Result := bySemantics (.abx w) 5 false (execUnstableStore (.abx w) 5 id) s

/-! ### SHX (R277) -/

/-- Opcode 0x9E (R277, R138). -/
def execShxAby (w : Word) (s : State) : Result := bySemantics (.aby w) 5 false (execUnstableStore (.aby w) 5 id) s

/-! ### TAS (R278) -/

/-- Opcode 0x9B (R278, R138). -/
def execTasAby (w : Word) (s : State) : Result := bySemantics (.aby w) 5 false (execUnstableStore (.aby w) 5 setStackFromAX) s

/-! ### LAS (R279) -/

/-- Opcode 0xBB (R279, R138). -/
def execLasAby (w : Word) (s : State) : Result := bySemantics (.aby w) 4 true (execRead (.aby w) 4 true setAXS) s

/-! ### KIL (R280) -/

/-- Opcode 0x02 (R280). -/
def execKil02 (s : State) : Result := execImplied Config.kilBaseCycles id s

/-- Opcode 0x12 (R280). -/
def execKil12 (s : State) : Result := execImplied Config.kilBaseCycles id s

/-- Opcode 0x22 (R280). -/
def execKil22 (s : State) : Result := execImplied Config.kilBaseCycles id s

/-- Opcode 0x32 (R280). -/
def execKil32 (s : State) : Result := execImplied Config.kilBaseCycles id s

/-- Opcode 0x42 (R280). -/
def execKil42 (s : State) : Result := execImplied Config.kilBaseCycles id s

/-- Opcode 0x52 (R280). -/
def execKil52 (s : State) : Result := execImplied Config.kilBaseCycles id s

/-- Opcode 0x62 (R280). -/
def execKil62 (s : State) : Result := execImplied Config.kilBaseCycles id s

/-- Opcode 0x72 (R280). -/
def execKil72 (s : State) : Result := execImplied Config.kilBaseCycles id s

/-- Opcode 0x92 (R280). -/
def execKil92 (s : State) : Result := execImplied Config.kilBaseCycles id s

/-- Opcode 0xB2 (R280). -/
def execKilB2 (s : State) : Result := execImplied Config.kilBaseCycles id s

/-- Opcode 0xD2 (R280). -/
def execKilD2 (s : State) : Result := execImplied Config.kilBaseCycles id s

/-- Opcode 0xF2 (R280). -/
def execKilF2 (s : State) : Result := execImplied Config.kilBaseCycles id s

/-! ### NOP (R281) -/

/-- Opcode 0x04 (R281, R133). -/
def execNopZp04 (z : Byte) (s : State) : Result := execSkip (.zp z) 3 true s

/-- Opcode 0x0C (R281, R136). -/
def execNopAbs (w : Word) (s : State) : Result := execSkip (.abs w) 4 true s

/-- Opcode 0x14 (R281, R134). -/
def execNopZpx14 (z : Byte) (s : State) : Result := execSkip (.zpx z) 4 true s

/-- Opcode 0x1A (R281). -/
def execNopImp1A (s : State) : Result := execImplied 2 id s

/-- Opcode 0x1C (R281, R137). -/
def execNopAbx1C (w : Word) (s : State) : Result := execSkip (.abx w) 4 true s

/-- Opcode 0x34 (R281, R134). -/
def execNopZpx34 (z : Byte) (s : State) : Result := execSkip (.zpx z) 4 true s

/-- Opcode 0x3A (R281). -/
def execNopImp3A (s : State) : Result := execImplied 2 id s

/-- Opcode 0x3C (R281, R137). -/
def execNopAbx3C (w : Word) (s : State) : Result := execSkip (.abx w) 4 true s

/-- Opcode 0x44 (R281, R133). -/
def execNopZp44 (z : Byte) (s : State) : Result := execSkip (.zp z) 3 true s

/-- Opcode 0x54 (R281, R134). -/
def execNopZpx54 (z : Byte) (s : State) : Result := execSkip (.zpx z) 4 true s

/-- Opcode 0x5A (R281). -/
def execNopImp5A (s : State) : Result := execImplied 2 id s

/-- Opcode 0x5C (R281, R137). -/
def execNopAbx5C (w : Word) (s : State) : Result := execSkip (.abx w) 4 true s

/-- Opcode 0x64 (R281, R133). -/
def execNopZp64 (z : Byte) (s : State) : Result := execSkip (.zp z) 3 true s

/-- Opcode 0x74 (R281, R134). -/
def execNopZpx74 (z : Byte) (s : State) : Result := execSkip (.zpx z) 4 true s

/-- Opcode 0x7A (R281). -/
def execNopImp7A (s : State) : Result := execImplied 2 id s

/-- Opcode 0x7C (R281, R137). -/
def execNopAbx7C (w : Word) (s : State) : Result := execSkip (.abx w) 4 true s

/-- Opcode 0x80 (R281, R132). -/
def execNopImm80 (b : Byte) (s : State) : Result := execSkip (.imm b) 2 true s

/-- Opcode 0x82 (R281, R132). -/
def execNopImm82 (b : Byte) (s : State) : Result := execSkip (.imm b) 2 true s

/-- Opcode 0x89 (R281, R132). -/
def execNopImm89 (b : Byte) (s : State) : Result := execSkip (.imm b) 2 true s

/-- Opcode 0xC2 (R281, R132). -/
def execNopImmC2 (b : Byte) (s : State) : Result := execSkip (.imm b) 2 true s

/-- Opcode 0xD4 (R281, R134). -/
def execNopZpxD4 (z : Byte) (s : State) : Result := execSkip (.zpx z) 4 true s

/-- Opcode 0xDA (R281). -/
def execNopImpDA (s : State) : Result := execImplied 2 id s

/-- Opcode 0xDC (R281, R137). -/
def execNopAbxDC (w : Word) (s : State) : Result := execSkip (.abx w) 4 true s

/-- Opcode 0xE2 (R281, R132). -/
def execNopImmE2 (b : Byte) (s : State) : Result := execSkip (.imm b) 2 true s

/-- Opcode 0xF4 (R281, R134). -/
def execNopZpxF4 (z : Byte) (s : State) : Result := execSkip (.zpx z) 4 true s

/-- Opcode 0xFA (R281). -/
def execNopImpFA (s : State) : Result := execImplied 2 id s

/-- Opcode 0xFC (R281, R137). -/
def execNopAbxFC (w : Word) (s : State) : Result := execSkip (.abx w) 4 true s

/-! ### SBC (R282) -/

/-- Opcode 0xEB (R282, R132). -/
def execSbcImmEB (b : Byte) (s : State) : Result := execRead (.imm b) 2 true subtractWithCarry s

end Sys2Proof.Machine
end

