-- ==== Sys2Proof/Machine/StackFlag.lean ====
section
/-! DEFINITION. Stack, flag and system instructions (R230 to R243). -/

namespace Sys2Proof.Machine

/-- R232: P.B <- 0b11 in the live register, then Push(P). -/
def pushStatus (s : State) : State :=
  let s := { s with p := setBreak InterruptKind.brk.breakPattern s.p }
  push s.p s

/-- R231: A <- Pull() with SetZN(A). -/
def pullA (s : State) : State :=
  let (v, s) := pull s
  { s with a := v, p := setZN v s.p }

/-- R233: P <- Pull(), all eight bits. -/
def pullStatus (s : State) : State :=
  let (v, s) := pull s
  { s with p := v }

/-- R234 to R240: write one flag. -/
def writeFlag (f : Flag) (b : Bool) (s : State) : State := { s with p := setFlag f b s.p }

/-! ### PHA (R230) -/

/-- Opcode 0x48 (R230). -/
def execPha (s : State) : Result := execImplied 3 (fun t => push t.a t) s

/-! ### PLA (R231) -/

/-- Opcode 0x68 (R231). -/
def execPla (s : State) : Result := execImplied 4 pullA s

/-! ### PHP (R232) -/

/-- Opcode 0x08 (R232). -/
def execPhp (s : State) : Result := execImplied 3 pushStatus s

/-! ### PLP (R233) -/

/-- Opcode 0x28 (R233). -/
def execPlp (s : State) : Result := execImplied 4 pullStatus s

/-! ### CLC (R234) -/

/-- Opcode 0x18 (R234). -/
def execClc (s : State) : Result := execImplied 2 (writeFlag .c false) s

/-! ### SEC (R235) -/

/-- Opcode 0x38 (R235). -/
def execSec (s : State) : Result := execImplied 2 (writeFlag .c true) s

/-! ### CLI (R236) -/

/-- Opcode 0x58 (R236). -/
def execCli (s : State) : Result := execImplied 2 (writeFlag .i false) s

/-! ### SEI (R237) -/

/-- Opcode 0x78 (R237). -/
def execSei (s : State) : Result := execImplied 2 (writeFlag .i true) s

/-! ### CLD (R238) -/

/-- Opcode 0xD8 (R238). -/
def execCld (s : State) : Result := execImplied 2 (writeFlag .d false) s

/-! ### SED (R239) -/

/-- Opcode 0xF8 (R239). -/
def execSed (s : State) : Result := execImplied 2 (writeFlag .d true) s

/-! ### CLV (R240) -/

/-- Opcode 0xB8 (R240). -/
def execClv (s : State) : Result := execImplied 2 (writeFlag .v false) s

/-! ### NOP (R241) -/

/-- Opcode 0xEA (R241). -/
def execNop (s : State) : Result := execImplied 2 id s

/-! ### BRK (R242) -/

/-- Opcode 0x00 (R242). -/
def execBrk (s : State) : Result := execImplied 7 (takeException .brk) s

/-! ### RTI (R243) -/

/-- Opcode 0x40 (R243). -/
def execRti (s : State) : Result := execImplied 6 returnFromException s

end Sys2Proof.Machine
end

