-- ==== Sys2Proof/Machine/Dispatch.lean ====
section
/-! DEFINITION. The dispatch of an instruction to its meaning, one arm per row of the opcode table (R104, R106). -/

namespace Sys2Proof.Machine

/-- The effect of an instruction, with PC already past its bytes (R15, R402 (1c)); it charges `cycles_left` (R404). -/
def exec (i : Instr) (s : State) : Host.Outcome State Fault Refusal :=
  match i with
  | .brk => Sys2Proof.Machine.execBrk s
  | .oraIzx z => Sys2Proof.Machine.execOraIzx z s
  | .kil02 => Sys2Proof.Machine.execKil02 s
  | .sloIzx z => Sys2Proof.Machine.execSloIzx z s
  | .nopZp04 z => Sys2Proof.Machine.execNopZp04 z s
  | .oraZp z => Sys2Proof.Machine.execOraZp z s
  | .aslZp z => Sys2Proof.Machine.execAslZp z s
  | .sloZp z => Sys2Proof.Machine.execSloZp z s
  | .php => Sys2Proof.Machine.execPhp s
  | .oraImm b => Sys2Proof.Machine.execOraImm b s
  | .aslAcc => Sys2Proof.Machine.execAslAcc s
  | .ancImm0B b => Sys2Proof.Machine.execAncImm0B b s
  | .nopAbs w => Sys2Proof.Machine.execNopAbs w s
  | .oraAbs w => Sys2Proof.Machine.execOraAbs w s
  | .aslAbs w => Sys2Proof.Machine.execAslAbs w s
  | .sloAbs w => Sys2Proof.Machine.execSloAbs w s
  | .bplRel o => Sys2Proof.Machine.execBplRel o s
  | .oraIzy z => Sys2Proof.Machine.execOraIzy z s
  | .kil12 => Sys2Proof.Machine.execKil12 s
  | .sloIzy z => Sys2Proof.Machine.execSloIzy z s
  | .nopZpx14 z => Sys2Proof.Machine.execNopZpx14 z s
  | .oraZpx z => Sys2Proof.Machine.execOraZpx z s
  | .aslZpx z => Sys2Proof.Machine.execAslZpx z s
  | .sloZpx z => Sys2Proof.Machine.execSloZpx z s
  | .clc => Sys2Proof.Machine.execClc s
  | .oraAby w => Sys2Proof.Machine.execOraAby w s
  | .nopImp1A => Sys2Proof.Machine.execNopImp1A s
  | .sloAby w => Sys2Proof.Machine.execSloAby w s
  | .nopAbx1C w => Sys2Proof.Machine.execNopAbx1C w s
  | .oraAbx w => Sys2Proof.Machine.execOraAbx w s
  | .aslAbx w => Sys2Proof.Machine.execAslAbx w s
  | .sloAbx w => Sys2Proof.Machine.execSloAbx w s
  | .jsrAbs w => Sys2Proof.Machine.execJsrAbs w s
  | .andIzx z => Sys2Proof.Machine.execAndIzx z s
  | .kil22 => Sys2Proof.Machine.execKil22 s
  | .rlaIzx z => Sys2Proof.Machine.execRlaIzx z s
  | .bitZp z => Sys2Proof.Machine.execBitZp z s
  | .andZp z => Sys2Proof.Machine.execAndZp z s
  | .rolZp z => Sys2Proof.Machine.execRolZp z s
  | .rlaZp z => Sys2Proof.Machine.execRlaZp z s
  | .plp => Sys2Proof.Machine.execPlp s
  | .andImm b => Sys2Proof.Machine.execAndImm b s
  | .rolAcc => Sys2Proof.Machine.execRolAcc s
  | .ancImm2B b => Sys2Proof.Machine.execAncImm2B b s
  | .bitAbs w => Sys2Proof.Machine.execBitAbs w s
  | .andAbs w => Sys2Proof.Machine.execAndAbs w s
  | .rolAbs w => Sys2Proof.Machine.execRolAbs w s
  | .rlaAbs w => Sys2Proof.Machine.execRlaAbs w s
  | .bmiRel o => Sys2Proof.Machine.execBmiRel o s
  | .andIzy z => Sys2Proof.Machine.execAndIzy z s
  | .kil32 => Sys2Proof.Machine.execKil32 s
  | .rlaIzy z => Sys2Proof.Machine.execRlaIzy z s
  | .nopZpx34 z => Sys2Proof.Machine.execNopZpx34 z s
  | .andZpx z => Sys2Proof.Machine.execAndZpx z s
  | .rolZpx z => Sys2Proof.Machine.execRolZpx z s
  | .rlaZpx z => Sys2Proof.Machine.execRlaZpx z s
  | .sec => Sys2Proof.Machine.execSec s
  | .andAby w => Sys2Proof.Machine.execAndAby w s
  | .nopImp3A => Sys2Proof.Machine.execNopImp3A s
  | .rlaAby w => Sys2Proof.Machine.execRlaAby w s
  | .nopAbx3C w => Sys2Proof.Machine.execNopAbx3C w s
  | .andAbx w => Sys2Proof.Machine.execAndAbx w s
  | .rolAbx w => Sys2Proof.Machine.execRolAbx w s
  | .rlaAbx w => Sys2Proof.Machine.execRlaAbx w s
  | .rti => Sys2Proof.Machine.execRti s
  | .eorIzx z => Sys2Proof.Machine.execEorIzx z s
  | .kil42 => Sys2Proof.Machine.execKil42 s
  | .sreIzx z => Sys2Proof.Machine.execSreIzx z s
  | .nopZp44 z => Sys2Proof.Machine.execNopZp44 z s
  | .eorZp z => Sys2Proof.Machine.execEorZp z s
  | .lsrZp z => Sys2Proof.Machine.execLsrZp z s
  | .sreZp z => Sys2Proof.Machine.execSreZp z s
  | .pha => Sys2Proof.Machine.execPha s
  | .eorImm b => Sys2Proof.Machine.execEorImm b s
  | .lsrAcc => Sys2Proof.Machine.execLsrAcc s
  | .alrImm b => Sys2Proof.Machine.execAlrImm b s
  | .jmpAbs w => Sys2Proof.Machine.execJmpAbs w s
  | .eorAbs w => Sys2Proof.Machine.execEorAbs w s
  | .lsrAbs w => Sys2Proof.Machine.execLsrAbs w s
  | .sreAbs w => Sys2Proof.Machine.execSreAbs w s
  | .bvcRel o => Sys2Proof.Machine.execBvcRel o s
  | .eorIzy z => Sys2Proof.Machine.execEorIzy z s
  | .kil52 => Sys2Proof.Machine.execKil52 s
  | .sreIzy z => Sys2Proof.Machine.execSreIzy z s
  | .nopZpx54 z => Sys2Proof.Machine.execNopZpx54 z s
  | .eorZpx z => Sys2Proof.Machine.execEorZpx z s
  | .lsrZpx z => Sys2Proof.Machine.execLsrZpx z s
  | .sreZpx z => Sys2Proof.Machine.execSreZpx z s
  | .cli => Sys2Proof.Machine.execCli s
  | .eorAby w => Sys2Proof.Machine.execEorAby w s
  | .nopImp5A => Sys2Proof.Machine.execNopImp5A s
  | .sreAby w => Sys2Proof.Machine.execSreAby w s
  | .nopAbx5C w => Sys2Proof.Machine.execNopAbx5C w s
  | .eorAbx w => Sys2Proof.Machine.execEorAbx w s
  | .lsrAbx w => Sys2Proof.Machine.execLsrAbx w s
  | .sreAbx w => Sys2Proof.Machine.execSreAbx w s
  | .rts => Sys2Proof.Machine.execRts s
  | .adcIzx z => Sys2Proof.Machine.execAdcIzx z s
  | .kil62 => Sys2Proof.Machine.execKil62 s
  | .rraIzx z => Sys2Proof.Machine.execRraIzx z s
  | .nopZp64 z => Sys2Proof.Machine.execNopZp64 z s
  | .adcZp z => Sys2Proof.Machine.execAdcZp z s
  | .rorZp z => Sys2Proof.Machine.execRorZp z s
  | .rraZp z => Sys2Proof.Machine.execRraZp z s
  | .pla => Sys2Proof.Machine.execPla s
  | .adcImm b => Sys2Proof.Machine.execAdcImm b s
  | .rorAcc => Sys2Proof.Machine.execRorAcc s
  | .arrImm b => Sys2Proof.Machine.execArrImm b s
  | .jmpInd w => Sys2Proof.Machine.execJmpInd w s
  | .adcAbs w => Sys2Proof.Machine.execAdcAbs w s
  | .rorAbs w => Sys2Proof.Machine.execRorAbs w s
  | .rraAbs w => Sys2Proof.Machine.execRraAbs w s
  | .bvsRel o => Sys2Proof.Machine.execBvsRel o s
  | .adcIzy z => Sys2Proof.Machine.execAdcIzy z s
  | .kil72 => Sys2Proof.Machine.execKil72 s
  | .rraIzy z => Sys2Proof.Machine.execRraIzy z s
  | .nopZpx74 z => Sys2Proof.Machine.execNopZpx74 z s
  | .adcZpx z => Sys2Proof.Machine.execAdcZpx z s
  | .rorZpx z => Sys2Proof.Machine.execRorZpx z s
  | .rraZpx z => Sys2Proof.Machine.execRraZpx z s
  | .sei => Sys2Proof.Machine.execSei s
  | .adcAby w => Sys2Proof.Machine.execAdcAby w s
  | .nopImp7A => Sys2Proof.Machine.execNopImp7A s
  | .rraAby w => Sys2Proof.Machine.execRraAby w s
  | .nopAbx7C w => Sys2Proof.Machine.execNopAbx7C w s
  | .adcAbx w => Sys2Proof.Machine.execAdcAbx w s
  | .rorAbx w => Sys2Proof.Machine.execRorAbx w s
  | .rraAbx w => Sys2Proof.Machine.execRraAbx w s
  | .nopImm80 b => Sys2Proof.Machine.execNopImm80 b s
  | .staIzx z => Sys2Proof.Machine.execStaIzx z s
  | .nopImm82 b => Sys2Proof.Machine.execNopImm82 b s
  | .saxIzx z => Sys2Proof.Machine.execSaxIzx z s
  | .styZp z => Sys2Proof.Machine.execStyZp z s
  | .staZp z => Sys2Proof.Machine.execStaZp z s
  | .stxZp z => Sys2Proof.Machine.execStxZp z s
  | .saxZp z => Sys2Proof.Machine.execSaxZp z s
  | .dey => Sys2Proof.Machine.execDey s
  | .nopImm89 b => Sys2Proof.Machine.execNopImm89 b s
  | .txa => Sys2Proof.Machine.execTxa s
  | .xaaImm b => Sys2Proof.Machine.execXaaImm b s
  | .styAbs w => Sys2Proof.Machine.execStyAbs w s
  | .staAbs w => Sys2Proof.Machine.execStaAbs w s
  | .stxAbs w => Sys2Proof.Machine.execStxAbs w s
  | .saxAbs w => Sys2Proof.Machine.execSaxAbs w s
  | .bccRel o => Sys2Proof.Machine.execBccRel o s
  | .staIzy z => Sys2Proof.Machine.execStaIzy z s
  | .kil92 => Sys2Proof.Machine.execKil92 s
  | .ahxIzy z => Sys2Proof.Machine.execAhxIzy z s
  | .styZpx z => Sys2Proof.Machine.execStyZpx z s
  | .staZpx z => Sys2Proof.Machine.execStaZpx z s
  | .stxZpy z => Sys2Proof.Machine.execStxZpy z s
  | .saxZpy z => Sys2Proof.Machine.execSaxZpy z s
  | .tya => Sys2Proof.Machine.execTya s
  | .staAby w => Sys2Proof.Machine.execStaAby w s
  | .txs => Sys2Proof.Machine.execTxs s
  | .tasAby w => Sys2Proof.Machine.execTasAby w s
  | .shyAbx w => Sys2Proof.Machine.execShyAbx w s
  | .staAbx w => Sys2Proof.Machine.execStaAbx w s
  | .shxAby w => Sys2Proof.Machine.execShxAby w s
  | .ahxAby w => Sys2Proof.Machine.execAhxAby w s
  | .ldyImm b => Sys2Proof.Machine.execLdyImm b s
  | .ldaIzx z => Sys2Proof.Machine.execLdaIzx z s
  | .ldxImm b => Sys2Proof.Machine.execLdxImm b s
  | .laxIzx z => Sys2Proof.Machine.execLaxIzx z s
  | .ldyZp z => Sys2Proof.Machine.execLdyZp z s
  | .ldaZp z => Sys2Proof.Machine.execLdaZp z s
  | .ldxZp z => Sys2Proof.Machine.execLdxZp z s
  | .laxZp z => Sys2Proof.Machine.execLaxZp z s
  | .tay => Sys2Proof.Machine.execTay s
  | .ldaImm b => Sys2Proof.Machine.execLdaImm b s
  | .tax => Sys2Proof.Machine.execTax s
  | .laxImm b => Sys2Proof.Machine.execLaxImm b s
  | .ldyAbs w => Sys2Proof.Machine.execLdyAbs w s
  | .ldaAbs w => Sys2Proof.Machine.execLdaAbs w s
  | .ldxAbs w => Sys2Proof.Machine.execLdxAbs w s
  | .laxAbs w => Sys2Proof.Machine.execLaxAbs w s
  | .bcsRel o => Sys2Proof.Machine.execBcsRel o s
  | .ldaIzy z => Sys2Proof.Machine.execLdaIzy z s
  | .kilB2 => Sys2Proof.Machine.execKilB2 s
  | .laxIzy z => Sys2Proof.Machine.execLaxIzy z s
  | .ldyZpx z => Sys2Proof.Machine.execLdyZpx z s
  | .ldaZpx z => Sys2Proof.Machine.execLdaZpx z s
  | .ldxZpy z => Sys2Proof.Machine.execLdxZpy z s
  | .laxZpy z => Sys2Proof.Machine.execLaxZpy z s
  | .clv => Sys2Proof.Machine.execClv s
  | .ldaAby w => Sys2Proof.Machine.execLdaAby w s
  | .tsx => Sys2Proof.Machine.execTsx s
  | .lasAby w => Sys2Proof.Machine.execLasAby w s
  | .ldyAbx w => Sys2Proof.Machine.execLdyAbx w s
  | .ldaAbx w => Sys2Proof.Machine.execLdaAbx w s
  | .ldxAby w => Sys2Proof.Machine.execLdxAby w s
  | .laxAby w => Sys2Proof.Machine.execLaxAby w s
  | .cpyImm b => Sys2Proof.Machine.execCpyImm b s
  | .cmpIzx z => Sys2Proof.Machine.execCmpIzx z s
  | .nopImmC2 b => Sys2Proof.Machine.execNopImmC2 b s
  | .dcpIzx z => Sys2Proof.Machine.execDcpIzx z s
  | .cpyZp z => Sys2Proof.Machine.execCpyZp z s
  | .cmpZp z => Sys2Proof.Machine.execCmpZp z s
  | .decZp z => Sys2Proof.Machine.execDecZp z s
  | .dcpZp z => Sys2Proof.Machine.execDcpZp z s
  | .iny => Sys2Proof.Machine.execIny s
  | .cmpImm b => Sys2Proof.Machine.execCmpImm b s
  | .dex => Sys2Proof.Machine.execDex s
  | .axsImm b => Sys2Proof.Machine.execAxsImm b s
  | .cpyAbs w => Sys2Proof.Machine.execCpyAbs w s
  | .cmpAbs w => Sys2Proof.Machine.execCmpAbs w s
  | .decAbs w => Sys2Proof.Machine.execDecAbs w s
  | .dcpAbs w => Sys2Proof.Machine.execDcpAbs w s
  | .bneRel o => Sys2Proof.Machine.execBneRel o s
  | .cmpIzy z => Sys2Proof.Machine.execCmpIzy z s
  | .kilD2 => Sys2Proof.Machine.execKilD2 s
  | .dcpIzy z => Sys2Proof.Machine.execDcpIzy z s
  | .nopZpxD4 z => Sys2Proof.Machine.execNopZpxD4 z s
  | .cmpZpx z => Sys2Proof.Machine.execCmpZpx z s
  | .decZpx z => Sys2Proof.Machine.execDecZpx z s
  | .dcpZpx z => Sys2Proof.Machine.execDcpZpx z s
  | .cld => Sys2Proof.Machine.execCld s
  | .cmpAby w => Sys2Proof.Machine.execCmpAby w s
  | .nopImpDA => Sys2Proof.Machine.execNopImpDA s
  | .dcpAby w => Sys2Proof.Machine.execDcpAby w s
  | .nopAbxDC w => Sys2Proof.Machine.execNopAbxDC w s
  | .cmpAbx w => Sys2Proof.Machine.execCmpAbx w s
  | .decAbx w => Sys2Proof.Machine.execDecAbx w s
  | .dcpAbx w => Sys2Proof.Machine.execDcpAbx w s
  | .cpxImm b => Sys2Proof.Machine.execCpxImm b s
  | .sbcIzx z => Sys2Proof.Machine.execSbcIzx z s
  | .nopImmE2 b => Sys2Proof.Machine.execNopImmE2 b s
  | .iscIzx z => Sys2Proof.Machine.execIscIzx z s
  | .cpxZp z => Sys2Proof.Machine.execCpxZp z s
  | .sbcZp z => Sys2Proof.Machine.execSbcZp z s
  | .incZp z => Sys2Proof.Machine.execIncZp z s
  | .iscZp z => Sys2Proof.Machine.execIscZp z s
  | .inx => Sys2Proof.Machine.execInx s
  | .sbcImm b => Sys2Proof.Machine.execSbcImm b s
  | .nop => Sys2Proof.Machine.execNop s
  | .sbcImmEB b => Sys2Proof.Machine.execSbcImmEB b s
  | .cpxAbs w => Sys2Proof.Machine.execCpxAbs w s
  | .sbcAbs w => Sys2Proof.Machine.execSbcAbs w s
  | .incAbs w => Sys2Proof.Machine.execIncAbs w s
  | .iscAbs w => Sys2Proof.Machine.execIscAbs w s
  | .beqRel o => Sys2Proof.Machine.execBeqRel o s
  | .sbcIzy z => Sys2Proof.Machine.execSbcIzy z s
  | .kilF2 => Sys2Proof.Machine.execKilF2 s
  | .iscIzy z => Sys2Proof.Machine.execIscIzy z s
  | .nopZpxF4 z => Sys2Proof.Machine.execNopZpxF4 z s
  | .sbcZpx z => Sys2Proof.Machine.execSbcZpx z s
  | .incZpx z => Sys2Proof.Machine.execIncZpx z s
  | .iscZpx z => Sys2Proof.Machine.execIscZpx z s
  | .sed => Sys2Proof.Machine.execSed s
  | .sbcAby w => Sys2Proof.Machine.execSbcAby w s
  | .nopImpFA => Sys2Proof.Machine.execNopImpFA s
  | .iscAby w => Sys2Proof.Machine.execIscAby w s
  | .nopAbxFC w => Sys2Proof.Machine.execNopAbxFC w s
  | .sbcAbx w => Sys2Proof.Machine.execSbcAbx w s
  | .incAbx w => Sys2Proof.Machine.execIncAbx w s
  | .iscAbx w => Sys2Proof.Machine.execIscAbx w s

end Sys2Proof.Machine
end

