-- ==== Sys2Proof/Machine/Video.lean ====
section
/-! DEFINITION. The PPU: video addressing (R335 to R339), the clock (R340 to R343) and the decode functions the host
calls (R345 to R348). -/

namespace Sys2Proof.Machine

/-! ### Video address space -/

/-- R337: the physical nametable of a logical one. -/
def physicalTable : Mirroring → BitVec 2 → Nat
  | .vertical, l => l.toNat % 2
  | .horizontal, l => l.toNat / 2
  | .single, _ => 0
  | .four, l => l.toNat

/-- R338: the palette index of a video address, with the alias rule. -/
def paletteIndex (v : BitVec 14) : Nat :=
  let i := v.toNat % 32
  if i = 0x10 ∨ i = 0x14 ∨ i = 0x18 ∨ i = 0x1C then i - 0x10 else i

/-- R335: the cell of a 14-bit video address, by its 4KB region. -/
def videoCell (m : Mirroring) (v : BitVec 14) : VideoCell :=
  match v.toNat / 4096 with
  | 0 | 1 => .chr (v.toNat % 8192)
  | 2 => .nt (physicalTable m (v.extractLsb' 10 2) * Config.nametableSize + v.toNat % 1024)
  | _ => .pal (paletteIndex v)

/-- The byte a video cell holds. -/
def Ppu.readVideoCell (u : Ppu) : VideoCell → Byte
  | .chr k => u.chr.get k
  | .nt k => u.nt.get k
  | .pal k => u.pal.get k

/-- Change the byte a video cell holds. -/
def Ppu.writeVideoCell (u : Ppu) (b : Byte) : VideoCell → Ppu
  | .chr k => { u with chr := u.chr.set k b }
  | .nt k => { u with nt := u.nt.set k b }
  | .pal k => { u with pal := u.pal.set k b }

/-- R388 (4), D36: an address of 0x4000 or more is refused, never wrapped. -/
def videoAddress (v : Word) : Except Fault (BitVec 14) :=
  if v.toNat < 0x4000 then .ok (v.setWidth 14) else .error (.videoAddress v)

/-- R335: `VRead(v)`. -/
def videoRead (v : Word) (s : State) : Except Fault Byte :=
  match videoAddress v with
  | .ok v => .ok (s.ppu.readVideoCell (videoCell s.launch.mirroring v))
  | .error f => .error f

/-- R335: `VWrite(v, b)`. -/
def videoWrite (v : Word) (b : Byte) (s : State) : Except Fault State :=
  match videoAddress v with
  | .ok v => .ok { s with ppu := s.ppu.writeVideoCell b (videoCell s.launch.mirroring v) }
  | .error f => .error f

/-! ### The clock -/

/-- R342, log 11: the pixel painted next in a buffer of `size` pixels: a free position inside it. -/
def Ppu.paintedPixel (u : Ppu) (size : Nat) : Nat := Config.pixelPlace u.pixelDraws u.cycle u.scanline % size

/-- R342, log 11: paint one pixel of the buffer being painted, at a free position and with a free value. -/
def Ppu.paint (u : Ppu) (size : Nat) : Ppu :=
  let k := u.paintedPixel size
  let buffer := (u.frame.get u.active).set k (Config.pixelValue u.pixelDraws)
  { u with frame := u.frame.set u.active.val buffer u.active.isLt, pixelDraws := u.pixelDraws + 1 }

/-- R340 (2) to (4): advance the counters; true when a frame is complete. -/
def Ppu.advance (u : Ppu) : Ppu × Bool :=
  if u.cycle + 1 = Config.ppuCyclesPerLine then
    if u.scanline + 1 = (Config.ppuLinesPerFrame : Int) - 1 then
      ({ u with cycle := 0, scanline := -1, active := 1 - u.active }, true)
    else ({ u with cycle := 0, scanline := u.scanline + 1 }, false)
  else ({ u with cycle := u.cycle + 1 }, false)

/-- R340: one PPU clock and the value it returns. -/
def Ppu.clock (u : Ppu) (size : Nat) : Ppu × Bool := (u.paint size).advance

/-- The number of pixels of a frame buffer. -/
def Launch.frameSize (l : Launch) : Nat := l.frameWidth * l.frameHeight

/-- R340: `PpuClock()` on the machine. -/
def ppuClock (s : State) : State × Bool :=
  let (u, done) := s.ppu.clock (Launch.frameSize s.launch)
  ({ s with ppu := u }, done)

/-- R405: the PPU clocks of one system tick, noting whether one of them completed a frame. -/
def ppuClocks : Nat → State → State
  | 0, s => s
  | n + 1, s =>
    let (s, done) := ppuClock s
    ppuClocks n { s with frameDone := s.frameDone || done }

/-! ### Decode functions -/

/-- R345: `GetScreen()`, the displayable buffer. -/
def getScreen (s : State) : Memory := s.ppu.frame.get (1 - s.ppu.active)

/-- R347: the 2-bit pixel at row `r` and column `c` of tile `t` of pattern table `table`. -/
def tilePixel (u : Ppu) (table : Bool) (t : Byte) (r c : BitVec 3) : BitVec 2 :=
  let base := table.toNat * 4096 + t.toNat * 16
  let lo := u.chr.get (base + r.toNat)
  let hi := u.chr.get (base + r.toNat + 8)
  let k := 7 - c.toNat
  BitVec.ofBool (hi.getLsbD k) ++ BitVec.ofBool (lo.getLsbD k)

/-- R348: `GetPaletteColor(palette, index)`, the entry number in the 64-entry colour table. -/
def getPaletteColor (palette : BitVec 3) (index : BitVec 2) (s : State) : BitVec 6 :=
  let v : BitVec 14 := 0x3F00 + (palette ++ index).setWidth 14
  (s.ppu.readVideoCell (videoCell s.launch.mirroring v)).setWidth 6

/-- R346: the pixel of the pattern table image at column `x` of row `y`. -/
def patternPixel (palette : BitVec 3) (leftHalf : Bool) (s : State) (x y : BitVec 7) : BitVec 6 :=
  let t : Byte := (y.extractLsb' 3 4 ++ x.extractLsb' 3 4 : BitVec 8)
  getPaletteColor palette (tilePixel s.ppu (!leftHalf) t (y.extractLsb' 0 3) (x.extractLsb' 0 3)) s

/-- R346: `GetPatternTable(palette, leftHalf)`, the 128 rows of 128 pixels. -/
def getPatternTable (palette : BitVec 3) (leftHalf : Bool) (s : State) : List (List (BitVec 6)) :=
  (List.range 128).map fun y => (List.range 128).map fun x =>
    patternPixel palette leftHalf s (BitVec.ofNat 7 x) (BitVec.ofNat 7 y)

end Sys2Proof.Machine
end

