-- ==== Sys2Proof/Machine/Clock.lean ====
section
/-! DEFINITION. Fetching an instruction (R25, R68, R82), the CPU clock (R402), the system tick (R405), `Step()` (R403)
and where an instruction is placed to be fetched next. -/

namespace Sys2Proof.Machine

/-- R25, R68: read `n` bytes at PC in ascending order, PC advancing by one after each. -/
def fetchBytes : Nat → State → List Byte × State
  | 0, s => ([], s)
  | n + 1, s =>
    let (b, s) := busRead s.pc s
    let (bs, s) := fetchBytes n { s with pc := s.pc + 1 }
    (b :: bs, s)

/-- R130, R132: the operand bytes of an opcode, PC moving past them. Every mode reads its own with `MemRead` but
Immediate, whose byte the instruction reads, if it reads it: here it is only looked at (log 16). -/
def fetchOperands (op : Byte) (s : State) : List Byte × State :=
  if isImmediate op then ([s.peek s.pc], { s with pc := s.pc + 1 }) else fetchBytes (instrLength op - 1) s

/-- R25, R109, R402 (1c): the bytes of the instruction at PC, the opcode and then its operand bytes, and the state its
execution starts from, with PC past them. -/
def fetchInstruction (s : State) : List Byte × State :=
  let (op, s) := busRead s.pc s
  let (operands, s) := fetchOperands op { s with pc := s.pc + 1 }
  (op :: operands, s)

/-- R402 (1c): fetch the bytes of an instruction and decode them. -/
def fetch (s : State) : Except Refusal (Instr × State) :=
  let (bytes, s) := fetchInstruction s
  match decode bytes with
  | .ok (i, _) => .ok (i, s)
  | .error _ => .error (.undecodable (bytes.headD 0))

/-- R402 (1c): fetch an instruction and run it. -/
def fetchAndExecute (s : State) : Result :=
  match fetch s with
  | .ok (i, s) => exec i s
  | .error r => .refused r

/-- R376, R402 (1a), (1b): the acknowledge sequence, in place of a fetch. -/
def acknowledge (kind : InterruptKind) (s : State) : State :=
  { takeException kind s with cyclesLeft := Config.intAckCycles }

/-- R372 to R374, R402 (1): what a clock does at an instruction boundary. -/
def atBoundary (s : State) : Result :=
  if s.acceptsNmi then .next (acknowledge .nmi s)
  else if s.acceptsIrq then .next (acknowledge .irq s)
  else fetchAndExecute (settleMaskedIrq s)

/-- R402 (2): `cycles_left <- cycles_left - 1`. -/
def countDown : Result → Result
  | .next s => .next { s with cyclesLeft := s.cyclesLeft - 1 }
  | .fault f => .fault f
  | .refused r => .refused r

/-- R402: the CPU's `Clock()`. Its return value is `cyclesLeft = 0` of the state it leaves. -/
def cpuClock (s : State) : Result :=
  countDown (if s.cyclesLeft = 0 then atBoundary s else .next s)

/-- R405: one system tick: three PPU clocks, then one CPU clock. -/
def systemTick (s : State) : Result :=
  cpuClock (ppuClocks Config.ppuClocksPerCpuClock { s with frameDone := false })

/-- R403: `repeat r <- Clock() until r`, for at most `fuel` clocks. -/
def clockUntilBoundary : Nat → State → Result
  | 0, s => .next s
  | fuel + 1, s =>
    match cpuClock s with
    | .next t => if t.cyclesLeft = 0 then .next t else clockUntilBoundary fuel t
    | stop => stop

/-- R403: `Step()`. A countdown ends within its own length, an instruction within 8 clocks. -/
def stepToBoundary (s : State) : Result := clockUntilBoundary (max 8 s.cyclesLeft) s

/-- Write consecutive bytes through the Bus. -/
def storeBytes : Word → List Byte → State → State
  | _, [], s => s
  | a, b :: bs, s => storeBytes (a + 1) bs (busWrite a b s)

/-- Log 18: place an instruction where the next step fetches it: at PC, through the Bus, with the machine at an
instruction boundary and no interrupt pending. -/
def placeInstruction (nbits w : Nat) (s : State) : State :=
  storeBytes s.pc (wordBytes nbits w) { s with cyclesLeft := 0, nmiPending := false, irqPending := false }

end Sys2Proof.Machine
end

