-- ==== Sys2Proof/Machine/Step.lean ====
section
/-! DEFINITION. The machine's step: one system tick (R405), whose first clock of an instruction does all its effects
(R402). -/

namespace Sys2Proof.Machine

/-- One step of the machine: one system tick. -/
def step (s : State) : Host.Outcome State Fault Refusal := systemTick s

/-- `s` with an instruction, given by the bits of its opcode table row, placed where `step` fetches next (log 18). -/
def State.withFetchWord (s : State) (nbits w : Nat) : State := placeInstruction nbits w s

end Sys2Proof.Machine
end

