-- ==== Sys2Proof/Machine/Disassembler.lean ====
section
/-! DEFINITION. The disassembler (R110, R118, R119). -/

namespace Sys2Proof.Machine

/-- An upper-case hexadecimal digit (R110). -/
def hexDigit (n : Nat) : Char :=
  ['0', '1', '2', '3', '4', '5', '6', '7', '8', '9', 'A', 'B', 'C', 'D', 'E', 'F'].getD (n % 16) '0'

/-- R110: `nn`. -/
def hexByte (b : Byte) : List Char := [hexDigit (b.toNat / 16), hexDigit b.toNat]

/-- R110: `nnnn`. -/
def hexWord (w : Word) : List Char := hexByte (hiByte w) ++ hexByte (loByte w)

/-- R110: a mnemonic in upper case. -/
def mnemonicText : Mnemonic → List Char
  | .adc => ['A', 'D', 'C']
  | .ahx => ['A', 'H', 'X']
  | .alr => ['A', 'L', 'R']
  | .anc => ['A', 'N', 'C']
  | .and => ['A', 'N', 'D']
  | .arr => ['A', 'R', 'R']
  | .asl => ['A', 'S', 'L']
  | .axs => ['A', 'X', 'S']
  | .bcc => ['B', 'C', 'C']
  | .bcs => ['B', 'C', 'S']
  | .beq => ['B', 'E', 'Q']
  | .bit => ['B', 'I', 'T']
  | .bmi => ['B', 'M', 'I']
  | .bne => ['B', 'N', 'E']
  | .bpl => ['B', 'P', 'L']
  | .brk => ['B', 'R', 'K']
  | .bvc => ['B', 'V', 'C']
  | .bvs => ['B', 'V', 'S']
  | .clc => ['C', 'L', 'C']
  | .cld => ['C', 'L', 'D']
  | .cli => ['C', 'L', 'I']
  | .clv => ['C', 'L', 'V']
  | .cmp => ['C', 'M', 'P']
  | .cpx => ['C', 'P', 'X']
  | .cpy => ['C', 'P', 'Y']
  | .dcp => ['D', 'C', 'P']
  | .dec => ['D', 'E', 'C']
  | .dex => ['D', 'E', 'X']
  | .dey => ['D', 'E', 'Y']
  | .eor => ['E', 'O', 'R']
  | .inc => ['I', 'N', 'C']
  | .inx => ['I', 'N', 'X']
  | .iny => ['I', 'N', 'Y']
  | .isc => ['I', 'S', 'C']
  | .jmp => ['J', 'M', 'P']
  | .jsr => ['J', 'S', 'R']
  | .kil => ['K', 'I', 'L']
  | .las => ['L', 'A', 'S']
  | .lax => ['L', 'A', 'X']
  | .lda => ['L', 'D', 'A']
  | .ldx => ['L', 'D', 'X']
  | .ldy => ['L', 'D', 'Y']
  | .lsr => ['L', 'S', 'R']
  | .nop => ['N', 'O', 'P']
  | .ora => ['O', 'R', 'A']
  | .pha => ['P', 'H', 'A']
  | .php => ['P', 'H', 'P']
  | .pla => ['P', 'L', 'A']
  | .plp => ['P', 'L', 'P']
  | .rla => ['R', 'L', 'A']
  | .rol => ['R', 'O', 'L']
  | .ror => ['R', 'O', 'R']
  | .rra => ['R', 'R', 'A']
  | .rti => ['R', 'T', 'I']
  | .rts => ['R', 'T', 'S']
  | .sax => ['S', 'A', 'X']
  | .sbc => ['S', 'B', 'C']
  | .sec => ['S', 'E', 'C']
  | .sed => ['S', 'E', 'D']
  | .sei => ['S', 'E', 'I']
  | .shx => ['S', 'H', 'X']
  | .shy => ['S', 'H', 'Y']
  | .slo => ['S', 'L', 'O']
  | .sre => ['S', 'R', 'E']
  | .sta => ['S', 'T', 'A']
  | .stx => ['S', 'T', 'X']
  | .sty => ['S', 'T', 'Y']
  | .tas => ['T', 'A', 'S']
  | .tax => ['T', 'A', 'X']
  | .tay => ['T', 'A', 'Y']
  | .tsx => ['T', 'S', 'X']
  | .txa => ['T', 'X', 'A']
  | .txs => ['T', 'X', 'S']
  | .tya => ['T', 'Y', 'A']
  | .xaa => ['X', 'A', 'A']

/-- R110: the operand of an instruction at address `a`; a branch shows its target (R118). -/
def operandText (a : Word) : Operand → List Char
  | .imm b => ['#', '$'] ++ hexByte b
  | .zp z => '$' :: hexByte z
  | .zpx z => '$' :: hexByte z ++ [',', 'X']
  | .zpy z => '$' :: hexByte z ++ [',', 'Y']
  | .abs w => '$' :: hexWord w
  | .abx w => '$' :: hexWord w ++ [',', 'X']
  | .aby w => '$' :: hexWord w ++ [',', 'Y']
  | .ind w => ['(', '$'] ++ hexWord w ++ [')']
  | .izx z => ['(', '$'] ++ hexByte z ++ [',', 'X', ')']
  | .izy z => ['(', '$'] ++ hexByte z ++ [')', ',', 'Y']
  | .rel o => '$' :: hexWord (a + 2 + signExtend o)

/-- R110: the text of an instruction at address `a`: the mnemonic, and the operand after one space. -/
def instrText (a : Word) (i : Instr) : List Char :=
  match i.operand with
  | none => mnemonicText i.mnemonic
  | some o => mnemonicText i.mnemonic ++ ' ' :: operandText a o

/-- R118: one tuple of the disassembly: address, text, byte length. -/
structure Line where
  address : Word
  text : String
  length : Nat
deriving DecidableEq, Repr

/-- R118, R119: at most `fuel` tuples from PC on, `used` bytes after the start, within `maxBytes` bytes (0 for no such
ceiling). `s.pc` is the cursor. DESIGN CHOICE, log 20: an instruction that the byte ceiling suppresses has had its opcode
read, to find its length (R109), and in the PPU window that read counts as a draw like any other; where the bytes used
have reached the ceiling, no instruction can fit and nothing more is read. -/
def disassembleFrom : Nat → Nat → Nat → State → List Line × State
  | 0, _, _, s => ([], s)
  | fuel + 1, used, maxBytes, s =>
    if maxBytes ≠ 0 ∧ maxBytes ≤ used then ([], s)
    else
      let (op, s') := busRead s.pc s
      if maxBytes ≠ 0 ∧ maxBytes < used + instrLength op then ([], s')
      else
        let (operands, s') := fetchBytes (instrLength op - 1) { s' with pc := s'.pc + 1 }
        match decode (op :: operands) with
        | .error _ => ([], s')
        | .ok (i, _) =>
          let (lines, s') := disassembleFrom fuel (used + i.length) maxBytes s'
          (⟨s.pc, String.ofList (instrText s.pc i), i.length⟩ :: lines, s')

/-- R118, R119: `Disassemble(start, count, maxBytes)`. With neither ceiling the listing has no end, which is `none`
(log 20). Nothing changes but the count of free bytes drawn, which every read in the PPU window advances. -/
def disassemble (start : Word) (count maxBytes : Nat) (s : State) : Option (List Line × State) :=
  if count = 0 ∧ maxBytes = 0 then none
  else
    let fuel := if count = 0 then maxBytes else count
    let (lines, t) := disassembleFrom fuel 0 maxBytes { s with pc := start }
    some (lines, { t with pc := s.pc })

end Sys2Proof.Machine
end

