-- ==== Sys2Proof/WellFormed.lean ====
section
/-! DEFINITION. Well-formedness of what is given to the machine: instructions, launch parameters, platform maps. -/

namespace Sys2Proof

/-- Every instruction term is well-formed: its constructor fixes the opcode and the format (R101), and its operand
is typed with exactly the bits the format has, so there is nothing left to check (R108: no reserved encodings). -/
def Instr.wellFormed (_ : Instr) : Bool := true

/-- R342: "each clock paints one pixel of the active back-buffer", so a frame buffer has at least one pixel. -/
def Launch.wellFormed (l : Launch) : Bool :=
  0 < l.frameWidth * l.frameHeight

/-- R300: what RegisterDevice requires of one call, whatever is registered already. -/
def MapEntry.wellFormed (e : MapEntry) : Bool :=
  (1 ≤ e.count && e.count ≤ 16) && e.firstSlot + e.count ≤ 16

/-- R300: the slots an entry fills. -/
def MapEntry.covers (e : MapEntry) (k : Nat) : Bool :=
  e.firstSlot ≤ k && k < e.firstSlot + e.count

/-- R300, R75: a platform map is legal when RegisterDevice accepts every entry in turn: each entry fits, and no slot
is claimed twice. -/
def PlatformMap.wellFormed (m : PlatformMap) : Bool :=
  m.all MapEntry.wellFormed && (List.range 16).all fun k => (m.filter fun e => e.covers k).length ≤ 1

end Sys2Proof
end

