-- ==== Sys2Proof/Machine/HostEntry.lean ====
section
/-! DEFINITION. What the host can do to the machine: construction (R47, R300, R310, R312), Reset (R400), the interrupt
lines (R406, R407). The accessors of R408 are the fields of `State`; `Clock()`, `Step()` and the PPU's entry points
stand in Clock.lean and Video.lean. -/

namespace Sys2Proof.Machine

/-! ### Construction -/

/-- R300: the slots one registration names. -/
def registeredSlots (start : Word) (count : Nat) (k : Nat) : Bool :=
  (slotOf start).toNat ≤ k && k < (slotOf start).toNat + count

/-- R300: the call fails: a bad count, a range past the address space, or a slot already occupied. -/
def registrationFails (start : Word) (count : Nat) (slots : Vector (Option Device) 16) : Bool :=
  count < 1 || count > 16 || (slotOf start).toNat + count > 16 ||
    (List.finRange 16).any fun k => registeredSlots start count k.val && (slots.get k).isSome

/-- R300: `RegisterDevice(device, startAddress, blockCount)`; none is failure, with no slot changed. -/
def registerDevice (d : Device) (start : Word) (count : Nat) (slots : Vector (Option Device) 16) :
    Option (Vector (Option Device) 16) :=
  if registrationFails start count slots then none
  else some (.ofFn fun k => if registeredSlots start count k.val then some d else slots.get k)

/-- R47, R75: the slot table a platform map builds on an empty Bus; none when a registration fails. -/
def slotsOfMap (m : PlatformMap) : Option (Vector (Option Device) 16) :=
  m.foldlM (fun slots e => registerDevice e.device (BitVec.ofNat 16 (e.firstSlot * 4096)) e.count slots)
    (.replicate 16 none)

/-- R300 on the machine: none is failure, with no slot changed. -/
def register (d : Device) (start : Word) (count : Nat) (s : State) : Option State :=
  (registerDevice d start count s.slots).map fun slots => { s with slots := slots }

/-- R47, R75, R311: the machine built for launch parameters and a platform map, with blank stores (log 7) and before
its first Reset; none when a registration fails. The CPU's registers have no defined value yet (R401, log 22). -/
def construct (l : Launch) (m : PlatformMap) : Option State :=
  (slotsOfMap m).map fun slots => { State.reset with slots := slots, launch := l }

/-- R310: the two program banks the ROM buffer accessor names. -/
inductive RomBank
  | low
  | high
deriving DecidableEq, Repr

/-- R310: the state after `GetRomBuffer(bank)`: the first request for the high bank allocates an independent one. Its
contents are unspecified, so they are the caller's (log 9). -/
def requestBank (bank : RomBank) (fresh : Memory) (s : State) : State :=
  match bank, s.bankHi with
  | .high, .mirrored => { s with bankHi := .own fresh }
  | _, _ => s

/-- R310: `GetRomBuffer(bank)`: the bank's bytes, and the state after the request. -/
def getRomBuffer (bank : RomBank) (fresh : Memory) (s : State) : Memory × State :=
  let s := requestBank bank fresh s
  match bank, s.bankHi with
  | .high, .own m => (m, s)
  | _, _ => (s.bankLo, s)

/-- R312: the offset of the program data in a cartridge image. -/
def programOffset (image : List Byte) : Nat :=
  16 + if (image.getD 6 0).getLsbD 3 then 512 else 0

/-- R312: what a loader copies from an image: `n` bytes from an offset; none when the image ends before that. -/
def imageSlice (image : List Byte) (offset n : Nat) : Option Memory :=
  let bytes := (image.drop offset).take n
  if bytes.length = n then some (Memory.ofBytes 0 bytes) else none

/-- R37, R310 to R312: the high bank after a load of `banks` program banks, the second one at `offset`. The accessor
makes the high bank an independent one, and the second bank fills it. One bank needs the alias; HIGH_BANK never goes back
from own to alias, so on an independent high bank such a load fails (log 21). -/
def loadHighBank (image : List Byte) (offset banks : Nat) (s : State) : Option HighBank :=
  match banks, s.bankHi with
  | 1, .mirrored => some .mirrored
  | 2, _ => (imageSlice image offset Config.romBankSize).map .own
  | _, _ => none

/-- R312: the end state of a successful load. None is a loader failure (R314), or a header the spec gives no meaning
(log 21). -/
def loadCartridge (image : List Byte) (s : State) : Option State := do
  let offset := programOffset image
  let banks := (image.getD 4 0).toNat
  let lo ← imageSlice image offset Config.romBankSize
  let hi ← loadHighBank image (offset + Config.romBankSize) banks s
  let chr ← if image.getD 5 0 = 0 then some s.ppu.chr
    else imageSlice image (offset + Config.romBankSize * banks) Config.chrSize
  return { s with bankLo := lo, bankHi := hi, ppu := { s.ppu with chr := chr } }

/-! ### Run-time entry points -/

/-- R400: `Reset()`. -/
def resetCpu (s : State) : State :=
  let (target, s) := readPair Config.vecReset (Config.vecReset + 1) s
  { s with
    a := 0x00
    x := 0x00
    y := 0x00
    sp := Config.resetS
    p := s.launch.resetP
    pc := target
    cyclesLeft := Config.resetCycles
    nmiPending := false
    irqPending := false }

/-- R406: `NMI()`. -/
def raiseNmi (s : State) : State := { s with nmiPending := true }

/-- R407: `IRQ()`. -/
def raiseIrq (s : State) : State := { s with irqPending := true }

end Sys2Proof.Machine
end

