-- ==== Sys2Proof/Safety.lean ====
section
/-! DEFINITION. What a sound state is (the invariant every step keeps), and the vocabulary the statements use for what
an instruction changes and leaves unchanged. -/

namespace Sys2Proof.Machine

/-! ### The invariant -/

/-- R40, R41, R44: the PPU's stores are canonical and of their size, the four aliased palette entries are never
stored, and the counters are in range. -/
def Ppu.wf (u : Ppu) (l : Launch) : Prop :=
  u.chr.wf Config.chrSize ∧ u.nt.wf (Config.nametableRam l.mirroring) ∧ u.pal.wf Config.paletteSize ∧
  u.oam.wf Config.oamSize ∧ (∀ b : Fin 2, (u.frame.get b).wf (Launch.frameSize l)) ∧
  (∀ k ∈ [0x10, 0x14, 0x18, 0x1C], u.pal.get k = Config.blankByte) ∧
  u.cycle < Config.ppuCyclesPerLine ∧ -1 ≤ u.scanline ∧ u.scanline ≤ (Config.ppuLinesPerFrame : Int) - 2

/-- R36: the high bank, if independent, is canonical and of its size. -/
def HighBank.wf : HighBank → Prop
  | .mirrored => True
  | .own m => m.wf Config.romBankSize

/-- A sound state: every store is canonical and of its size, the PPU's counters are in range, and a countdown has at
most the 7 clocks left that the longest instruction (8 cycles, R104) leaves after its first. -/
def State.wf (s : State) : Prop :=
  s.launch.wellFormed ∧ s.flat.wf Config.flatSize ∧ s.ram.wf Config.ramSize ∧ s.bankLo.wf Config.romBankSize ∧
  s.bankHi.wf ∧ s.ppu.wf s.launch ∧ s.cyclesLeft ≤ 7

/-! ### Frames -/

/-- The 8-bit registers other than P. -/
inductive Reg
  | a
  | x
  | y
  | s
deriving DecidableEq, Repr

/-- A register's value. -/
def State.reg (s : State) : Reg → Byte
  | .a => s.a
  | .x => s.x
  | .y => s.y
  | .s => s.sp

/-- Every register but the listed ones is unchanged. -/
def KeepsRegs (changed : List Reg) (s t : State) : Prop := ∀ r, r ∉ changed → t.reg r = s.reg r

/-- Every one-bit flag but the listed ones is unchanged. -/
def KeepsFlags (changed : List Flag) (s t : State) : Prop := ∀ f, f ∉ changed → t.flag f = s.flag f

/-- P is unchanged but for the listed one-bit flags: the other flags and the Break field are as before. -/
def KeepsStatus (changed : List Flag) (s t : State) : Prop := KeepsFlags changed s t ∧ t.brk = s.brk

/-- The PPU is unchanged but for its register file. -/
def KeepsVideo (s t : State) : Prop := t.ppu = { s.ppu with reg := t.ppu.reg }

/-- What neither an instruction nor an interrupt changes: the slot table (R35), HIGH_BANK (R37), the PPU but for its
register file (R334), the launch parameters and the frame signal. -/
def KeepsMachine (s t : State) : Prop :=
  t.slots = s.slots ∧ (t.bankHi = .mirrored ↔ s.bankHi = .mirrored) ∧ KeepsVideo s t ∧ t.launch = s.launch ∧
  t.frameDone = s.frameDone

/-- What no instruction changes: the interrupt latches (R375) and the machine around the CPU. -/
def KeepsHidden (s t : State) : Prop :=
  t.nmiPending = s.nmiPending ∧ t.irqPending = s.irqPending ∧ KeepsMachine s t

/-- Nothing is stored: every address holds what it held, and so does every store. -/
def StoresNothing (s t : State) : Prop :=
  (∀ a, t.stored a = s.stored a) ∧ t.flat = s.flat ∧ t.ram = s.ram ∧ t.bankLo = s.bankLo ∧ t.bankHi = s.bankHi ∧
  t.ppu.reg = s.ppu.reg

/-- Two addresses are the same storage cell (R77 (1)); an empty slot's addresses have none. -/
def State.sameCell (s : State) (a b : Word) : Prop := s.translate a = s.translate b ∧ s.translate b ≠ none

/-- Exactly the listed bytes are stored, at the listed addresses: the addresses of their cells hold them, every other
address holds what it held, and so does every storage cell, bound to a slot or not. (Cells of an independent high bank
count where there is one.) -/
def StoresBytes (w : List (Word × Byte)) (s t : State) : Prop :=
  (∀ c ∈ w, ∀ a, s.sameCell a c.1 → t.stored a = c.2) ∧
  (∀ a, (∀ c ∈ w, ¬ s.sameCell a c.1) → t.stored a = s.stored a) ∧
  (∀ d : Cell, (∀ k, d = .bankHi k → s.bankHi ≠ .mirrored) → (∀ c ∈ w, s.translate c.1 ≠ some d) →
    t.readCell d = s.readCell d)

/-- Exactly one byte `v` is stored, at address `ea`. -/
def StoresByte (ea : Word) (v : Byte) (s t : State) : Prop := StoresBytes [(ea, v)] s t

/-- R404: the cycles charged: the base count, plus one when the mode and the instruction both request it. -/
def Charges (base : Nat) (xm xi : Bool) (t : State) : Prop := t.cyclesLeft = base + (xm && xi).toNat

/-- The frame of one instruction's execution: only the listed registers and flags can change, and nothing hidden. -/
def Frame (regs : List Reg) (flags : List Flag) (s t : State) : Prop :=
  KeepsRegs regs s t ∧ KeepsStatus flags s t ∧ KeepsHidden s t

/-- R404: the addressing mode's extra-cycle request; Implicit makes none. -/
def modeRequestsExtraCycle (i : Instr) (s : State) : Bool :=
  match i.operand with
  | some o => (resolve o s).xm
  | none => false

/-- An instruction ran that stores nothing: PC still points past its bytes, only the listed registers and flags can
have changed, and its cycles are charged, `xi` being its extra-cycle request. -/
def RanWithoutStore (i : Instr) (xi : Bool) (regs : List Reg) (flags : List Flag) (s t : State) : Prop :=
  t.pc = s.pc ∧ Frame regs flags s t ∧ StoresNothing s t ∧ Charges i.baseCycles (modeRequestsExtraCycle i s) xi t

/-- An instruction ran that stores `v` at `ea` and nothing else: PC still points past its bytes, only the listed
registers and flags can have changed, and its base cycles are charged. -/
def RanStoring (i : Instr) (ea : Word) (v : Byte) (regs : List Reg) (flags : List Flag) (s t : State) : Prop :=
  t.pc = s.pc ∧ Frame regs flags s t ∧ StoresByte ea v s t ∧ Charges i.baseCycles false false t

/-! ### The opcode map -/

/-- R101: the formats. -/
inductive Format
  | imp
  | imm
  | zp
  | zpx
  | zpy
  | abs
  | abx
  | aby
  | ind
  | izx
  | izy
  | rel
deriving DecidableEq, Repr

/-- R101: the format of an instruction. -/
def formatOf (i : Instr) : Format :=
  match i.operand with
  | none => .imp
  | some (.imm _) => .imm
  | some (.zp _) => .zp
  | some (.zpx _) => .zpx
  | some (.zpy _) => .zpy
  | some (.abs _) => .abs
  | some (.abx _) => .abx
  | some (.aby _) => .aby
  | some (.ind _) => .ind
  | some (.izx _) => .izx
  | some (.izy _) => .izy
  | some (.rel _) => .rel

/-- The encodings of a mnemonic are exactly the listed (opcode, format, base cycles). -/
def HasEncodings (m : Mnemonic) (rows : List (Byte × Format × Nat)) : Prop :=
  ∀ r, r ∈ rows ↔ ∃ i : Instr, i.mnemonic = m ∧ (i.opcode, formatOf i, i.baseCycles) = r

/-! ### What the flags and results are, in numbers -/

/-- R13: Z and N describe a value. -/
def SetsZN (v : Byte) (t : State) : Prop := (t.flag .z = true ↔ v.toNat = 0) ∧ (t.flag .n = true ↔ 128 ≤ v.toNat)

/-- R185, R187: A and the four flags after adding `m` and a carry to `a`: C is the unsigned carry, V says that the
signed sum leaves -128 to 127. -/
def Adds (a m : Byte) (carry : Bool) (t : State) : Prop :=
  t.a.toNat = (a.toNat + m.toNat + carry.toNat) % 256 ∧
  (t.flag .c = true ↔ 255 < a.toNat + m.toNat + carry.toNat) ∧
  (t.flag .v = true ↔ a.toInt + m.toInt + carry.toNat < -128 ∨ 127 < a.toInt + m.toInt + carry.toNat) ∧
  SetsZN t.a t

/-- R171, R187: A and the four flags after subtracting `m` and the borrow (the complement of the carry) from `a`. -/
def Subtracts (a m : Byte) (carry : Bool) (t : State) : Prop :=
  (t.a.toNat : Int) = ((a.toNat : Int) - m.toNat - (!carry).toNat) % 256 ∧
  (t.flag .c = true ↔ 0 ≤ (a.toNat : Int) - m.toNat - (!carry).toNat) ∧
  (t.flag .v = true ↔ a.toInt - m.toInt - (!carry).toNat < -128 ∨ 127 < a.toInt - m.toInt - (!carry).toNat) ∧
  SetsZN t.a t

/-- R186: C, Z and N after comparing `r` with `m`. -/
def Compares (r m : Byte) (t : State) : Prop :=
  (t.flag .c = true ↔ m.toNat ≤ r.toNat) ∧ (t.flag .z = true ↔ r = m) ∧
  (t.flag .n = true ↔ 128 ≤ (r.toNat + 256 - m.toNat) % 256)

/-- R200 to R203: the shifted byte as a number. -/
def ShiftsTo (k : ShiftKind) (m : Byte) (carry : Bool) (v : Byte) : Prop :=
  match k with
  | .asl => v.toNat = 2 * m.toNat % 256
  | .lsr => v.toNat = m.toNat / 2
  | .rol => v.toNat = (2 * m.toNat + carry.toNat) % 256
  | .ror => v.toNat = m.toNat / 2 + 128 * carry.toNat

/-- R200 to R203: whether the bit shifted out is 1. -/
def ShiftsOut (k : ShiftKind) (m : Byte) : Prop :=
  match k with
  | .asl | .rol => 128 ≤ m.toNat
  | .lsr | .ror => m.toNat % 2 = 1

/-- R204: the byte a read-modify-write instruction reads at its effective address. -/
def byteAt (o : Operand) (s : State) : Byte := (resolve o s).state.peek (resolve o s).ea

/-- R404: the instruction's own extra-cycle request. -/
def requestsExtraCycle (i : Instr) (s : State) : Bool :=
  match i.mnemonic with
  | .adc | .and | .cmp | .eor | .lda | .ldx | .ldy | .ora | .sbc => true
  | .lax | .las | .nop => true
  | .bcc => !s.flag .c
  | .bcs => s.flag .c
  | .bne => !s.flag .z
  | .beq => s.flag .z
  | .bpl => !s.flag .n
  | .bmi => s.flag .n
  | .bvc => !s.flag .v
  | .bvs => s.flag .v
  | _ => false

/-! ### Runs -/

/-- What a machine does at a CPU clock at its boundary is fetch an instruction: no interrupt is accepted (R374). -/
def State.fetchesNext (s : State) : Prop := s.cyclesLeft = 0 ∧ s.acceptsNmi = false ∧ s.acceptsIrq = false

/-- `n` CPU clocks (R402). -/
def cpuClocks : Nat → State → Result
  | 0, s => .next s
  | n + 1, s =>
    match cpuClock s with
    | .next t => cpuClocks n t
    | stop => stop

/-- The PPU after `n` of its clocks (R340). -/
def Ppu.afterClocks (size : Nat) : Nat → Ppu → Ppu
  | 0, u => u
  | n + 1, u => Ppu.afterClocks size n (u.clock size).1

/-- An address that Bus reads return the stored byte of: not in the PPU window (R332). -/
def State.plain (s : State) (a : Word) : Prop := ∀ i, s.translate a ≠ some (.reg i)

/-- An address that holds what was last stored there: in a slot of a Memory device. -/
def State.isMemory (s : State) (a : Word) : Prop := s.plain a ∧ s.translate a ≠ none

end Sys2Proof.Machine
end

