-- ==== Sys2Proof/Certificates/Slice0/Obligations.lean ====
section
/-! DEFINITION. The statements for the provers. Each docstring names the rules of spec/ it formalises. -/

open Sys2Proof Sys2Proof.Machine

/-- O1 (R100, R101, R103, R104, R110). Byte strings the spec writes out decode to the instructions it names -/
def Obligations.SpecBytesDecode : Prop :=
  decode [0x0D, 0xCD, 0xAB] = .ok (.oraAbs 0xABCD, []) ∧
  decode [0xA9, 0x10] = .ok (.ldaImm 0x10, []) ∧
  decode [0x85, 0x00] = .ok (.staZp 0x00, []) ∧
  decode [0xBD, 0xF0, 0x12] = .ok (.ldaAbx 0x12F0, []) ∧
  decode [0x6C, 0xFF, 0x02] = .ok (.jmpInd 0x02FF, []) ∧
  decode [0xA1, 0x20] = .ok (.ldaIzx 0x20, []) ∧
  decode [0xB1, 0x86] = .ok (.ldaIzy 0x86, []) ∧
  decode [0xB6, 0xFF] = .ok (.ldxZpy 0xFF, []) ∧
  decode [0xD0, 0xF9] = .ok (.bneRel 0xF9, []) ∧
  decode [0x20, 0x34, 0x12] = .ok (.jsrAbs 0x1234, []) ∧
  decode [0x00] = .ok (.brk, []) ∧
  decode [0x18] = .ok (.clc, []) ∧
  decode [0x07, 0x10] = .ok (.sloZp 0x10, []) ∧
  decode [0x1C, 0xFF, 0x02] = .ok (.nopAbx1C 0x02FF, [])

/-- O2 (R100, R101, R103, R104, R106). Decoding the bytes of any instruction, whatever follows them, gives the
instruction back -/
def Obligations.DecodeOfEncode : Prop :=
  ∀ (i : Instr) (rest : List Byte), decode (encode i ++ rest) = .ok (i, rest)

/-- O3 (R100, R101, R103, R108). Whatever decodes is exactly the encoding of the instruction it decodes to -/
def Obligations.EncodeOfDecode : Prop :=
  ∀ (bytes rest : List Byte) (i : Instr), decode bytes = .ok (i, rest) → bytes = encode i ++ rest

/-- O4 (R100, R102, R106, R107, R109). Every opcode byte with two bytes after it decodes, by the whole opcode byte,
to one table entry of 1 to 3 bytes -/
def Obligations.DecodingIsTotal : Prop :=
  ∀ (op b1 b2 : Byte) (rest : List Byte), ∃ i : Instr,
    decode (op :: b1 :: b2 :: rest) = .ok (i, (op :: b1 :: b2 :: rest).drop i.length) ∧
    i.opcode = op ∧ i.length = instrLength op ∧ 1 ≤ i.length ∧ i.length ≤ 3 ∧
    ∀ j : Instr, j.opcode = op → j.mnemonic = i.mnemonic ∧ formatOf j = formatOf i ∧ j.length = i.length ∧
      j.baseCycles = i.baseCycles

/-- O5 (R25, R68, R372, R373, R402, R405). At a boundary with no interrupt accepted, a step (log 14) runs the
instruction whose bytes PC reads -/
def Obligations.StepRunsDecodedInstruction : Prop :=
  ∀ (s : State) (i : Instr),
    let b := settleMaskedIrq (ppuClocks 3 { s with frameDone := false })
    s.fetchesNext → (fetchInstruction b).1 = encode i →
      step s = countDown (exec i (fetchInstruction b).2)

/-- O6 (R25, R64, R68, R82, R109, R132). Fetching outside the PPU window gives the stored bytes in order and only
moves PC; it does not read an Immediate operand (log 16) -/
def Obligations.FetchReadsStoredBytes : Prop :=
  (∀ (n : Nat) (s : State), (∀ k < n, s.plain (s.pc + BitVec.ofNat 16 k)) →
    fetchBytes n s =
      ((List.range n).map fun k => s.stored (s.pc + BitVec.ofNat 16 k), { s with pc := s.pc + BitVec.ofNat 16 n })) ∧
  (∀ s : State,
    let n := instrLength (s.stored s.pc)
    (∀ k < n, s.plain (s.pc + BitVec.ofNat 16 k)) →
      fetchInstruction s =
        ((List.range n).map fun k => s.stored (s.pc + BitVec.ofNat 16 k), { s with pc := s.pc + BitVec.ofNat 16 n })) ∧
  ∀ s : State, s.plain s.pc → isImmediate (s.stored s.pc) = true →
    fetchInstruction s = ([s.stored s.pc, s.peek (s.pc + 1)], { s with pc := s.pc + 2 })

/-- O7 (R372, R402, R405). In a countdown a step (one system tick, log 14) only counts one clock and runs the PPU -/
def Obligations.IdleClock : Prop :=
  ∀ (s : State) (n : Nat), s.cyclesLeft = n + 1 →
    step s = .next { ppuClocks 3 { s with frameDone := false } with cyclesLeft := n }

/-- O8 (R402, R403, R404, R417). From a boundary, an instruction occupies exactly base + (xm & xi) CPU clocks, all
effects in the first (Step(): log 23) -/
def Obligations.InstructionOccupiesItsCycles : Prop :=
  ∀ s : State, s.fetchesNext →
    ∃ (i : Instr) (u v : State) (n : Nat),
      fetch (settleMaskedIrq s) = .ok (i, u) ∧ exec i u = .next v ∧
      n = i.baseCycles + (modeRequestsExtraCycle i u && requestsExtraCycle i u).toNat ∧ 2 ≤ n ∧ n ≤ 8 ∧
      (∀ k, 1 ≤ k → k ≤ n → cpuClocks k s = .next { v with cyclesLeft := n - k }) ∧
      stepToBoundary s = .next { v with cyclesLeft := 0 }

/-- O9 (R144, R404). Every instruction completes, charging base + (xm & xi) cycles -/
def Obligations.ExtraCycleRule : Prop :=
  ∀ (i : Instr) (s : State),
    (∃ t, exec i s = .next t ∧
      t.cyclesLeft = i.baseCycles + (modeRequestsExtraCycle i s && requestsExtraCycle i s).toNat) ∧
    (modeRequestsExtraCycle i s = true → formatOf i ∈ [.abx, .aby, .izy, .rel])

/-- O10 (R69, R107, R379, R391). Every step from every state answers a next state: nothing faults and nothing is
refused -/
def Obligations.StepNeverStops : Prop :=
  ∀ s : State, ∃ t, step s = .next t

/-- O11 (R132, R133, R134, R135, R136, R137, R138, R142, R143). The modes that read no pointer: effective address
and extra-cycle request (Immediate value: log 16) -/
def Obligations.DirectModes : Prop :=
  ∀ (s : State) (b : Byte) (w : Word),
    resolve (.imm b) s = ⟨s.pc - 1, false, s⟩ ∧ load (.imm b) s = ⟨b, false, s.afterRead (s.pc - 1)⟩ ∧
    ((resolve (.zp b) s).ea.toNat = b.toNat ∧ (resolve (.zp b) s).xm = false ∧ (resolve (.zp b) s).state = s) ∧
    ((resolve (.zpx b) s).ea.toNat = (b.toNat + s.x.toNat) % 256 ∧ (resolve (.zpx b) s).xm = false ∧
      (resolve (.zpx b) s).state = s) ∧
    ((resolve (.zpy b) s).ea.toNat = (b.toNat + s.y.toNat) % 256 ∧ (resolve (.zpy b) s).xm = false ∧
      (resolve (.zpy b) s).state = s) ∧
    resolve (.abs w) s = ⟨w, false, s⟩ ∧
    ((resolve (.abx w) s).ea.toNat = w.toNat / 256 * 256 + (w.toNat + s.x.toNat) % 256 ∧
      ((resolve (.abx w) s).xm = true ↔ 256 ≤ w.toNat % 256 + s.x.toNat) ∧ (resolve (.abx w) s).state = s) ∧
    ((resolve (.aby w) s).ea.toNat = w.toNat / 256 * 256 + (w.toNat + s.y.toNat) % 256 ∧
      ((resolve (.aby w) s).xm = true ↔ 256 ≤ w.toNat % 256 + s.y.toNat) ∧ (resolve (.aby w) s).state = s) ∧
    (((resolve (.rel b) s).ea.toNat : Int) = ((s.pc.toNat : Int) + b.toInt) % 65536 ∧
      ((resolve (.rel b) s).xm = true ↔ (resolve (.rel b) s).ea.toNat / 256 ≠ s.pc.toNat / 256) ∧
      (resolve (.rel b) s).state = s)

/-- O12 (R139, R140, R141, R143, R145). The modes that read a pointer: where its two bytes are read, what they give,
and what is read at ea -/
def Obligations.PointerModes : Prop :=
  ∀ (s : State) (b : Byte) (w : Word),
    (let l := busRead w s
     let h := busRead (joinBytes (hiByte w) (loByte w + 1)) l.2
     resolve (.ind w) s = ⟨joinBytes h.1 l.1, false, h.2⟩) ∧
    (let l := busRead (zeroExtend (b + s.x)) s
     let h := busRead (zeroExtend (b + s.x + 1)) l.2
     resolve (.izx b) s = ⟨joinBytes h.1 l.1, false, h.2⟩) ∧
    (let l := busRead (zeroExtend b) s
     let h := busRead (zeroExtend (b + 1)) l.2
     (resolve (.izy b) s).ea.toNat = (h.1.toNat * 256 + l.1.toNat + s.y.toNat) % 65536 ∧
     ((resolve (.izy b) s).xm = true ↔ 256 ≤ l.1.toNat + s.y.toNat) ∧ (resolve (.izy b) s).state = h.2) ∧
    ∀ o : Operand, (∀ b, o ≠ .imm b) →
      load o s = ⟨(busRead (resolve o s).ea (resolve o s).state).1, (resolve o s).xm,
        (busRead (resolve o s).ea (resolve o s).state).2⟩

/-- O13 (R150, R151, R152). LDA, LDX and LDY load the operand byte into their register and set Z and N from it -/
def Obligations.Loads : Prop :=
  HasEncodings .lda
      [(0xA1, .izx, 6), (0xA5, .zp, 3), (0xA9, .imm, 2), (0xAD, .abs, 4), (0xB1, .izy, 5),
       (0xB5, .zpx, 4), (0xB9, .aby, 4), (0xBD, .abx, 4)] ∧
  HasEncodings .ldx
      [(0xA2, .imm, 2), (0xA6, .zp, 3), (0xAE, .abs, 4), (0xB6, .zpy, 4), (0xBE, .aby, 4)] ∧
  HasEncodings .ldy
      [(0xA0, .imm, 2), (0xA4, .zp, 3), (0xAC, .abs, 4), (0xB4, .zpx, 4), (0xBC, .abx, 4)] ∧
  ∀ (i : Instr) (o : Operand) (s : State), i.operand = some o →
    (i.mnemonic = .lda → ∃ t, exec i s = .next t ∧ t.a = (load o s).value ∧ SetsZN t.a t ∧
      RanWithoutStore i true [.a] [.z, .n] s t) ∧
    (i.mnemonic = .ldx → ∃ t, exec i s = .next t ∧ t.x = (load o s).value ∧ SetsZN t.x t ∧
      RanWithoutStore i true [.x] [.z, .n] s t) ∧
    (i.mnemonic = .ldy → ∃ t, exec i s = .next t ∧ t.y = (load o s).value ∧ SetsZN t.y t ∧
      RanWithoutStore i true [.y] [.z, .n] s t)

/-- O14 (R153, R154, R155). STA, STX and STY store their register at the effective address and change nothing else
-/
def Obligations.Stores : Prop :=
  HasEncodings .sta
      [(0x81, .izx, 6), (0x85, .zp, 3), (0x8D, .abs, 4), (0x91, .izy, 6), (0x95, .zpx, 4),
       (0x99, .aby, 5), (0x9D, .abx, 5)] ∧
  HasEncodings .stx [(0x86, .zp, 3), (0x8E, .abs, 4), (0x96, .zpy, 4)] ∧
  HasEncodings .sty [(0x84, .zp, 3), (0x8C, .abs, 4), (0x94, .zpx, 4)] ∧
  ∀ (i : Instr) (o : Operand) (s : State), i.operand = some o →
    (i.mnemonic = .sta → ∃ t, exec i s = .next t ∧ RanStoring i (resolve o s).ea s.a [] [] s t) ∧
    (i.mnemonic = .stx → ∃ t, exec i s = .next t ∧ RanStoring i (resolve o s).ea s.x [] [] s t) ∧
    (i.mnemonic = .sty → ∃ t, exec i s = .next t ∧ RanStoring i (resolve o s).ea s.y [] [] s t)

/-- O15 (R156, R157, R158, R159, R160, R161). TAX, TAY, TXA, TYA and TSX copy a register and set Z and N; TXS copies
X to S and sets no flag -/
def Obligations.Transfers : Prop :=
  HasEncodings .tax [(0xAA, .imp, 2)] ∧
  HasEncodings .tay [(0xA8, .imp, 2)] ∧
  HasEncodings .txa [(0x8A, .imp, 2)] ∧
  HasEncodings .tya [(0x98, .imp, 2)] ∧
  HasEncodings .tsx [(0xBA, .imp, 2)] ∧
  HasEncodings .txs [(0x9A, .imp, 2)] ∧
  ∀ s : State,
    (∃ t, exec .tax s = .next t ∧ t.x = s.a ∧ SetsZN t.x t ∧ RanWithoutStore .tax false [.x] [.z, .n] s t) ∧
    (∃ t, exec .tay s = .next t ∧ t.y = s.a ∧ SetsZN t.y t ∧ RanWithoutStore .tay false [.y] [.z, .n] s t) ∧
    (∃ t, exec .txa s = .next t ∧ t.a = s.x ∧ SetsZN t.a t ∧ RanWithoutStore .txa false [.a] [.z, .n] s t) ∧
    (∃ t, exec .tya s = .next t ∧ t.a = s.y ∧ SetsZN t.a t ∧ RanWithoutStore .tya false [.a] [.z, .n] s t) ∧
    (∃ t, exec .tsx s = .next t ∧ t.x = s.sp ∧ SetsZN t.x t ∧ RanWithoutStore .tsx false [.x] [.z, .n] s t) ∧
    (∃ t, exec .txs s = .next t ∧ t.sp = s.x ∧ RanWithoutStore .txs false [.s] [] s t)

/-- O16 (R170, R185). ADC adds the operand and the carry to A; C is the unsigned carry, V the signed overflow -/
def Obligations.AddWithCarry : Prop :=
  HasEncodings .adc
      [(0x61, .izx, 6), (0x65, .zp, 3), (0x69, .imm, 2), (0x6D, .abs, 4), (0x71, .izy, 5),
       (0x75, .zpx, 4), (0x79, .aby, 4), (0x7D, .abx, 4)] ∧
  ∀ (i : Instr) (o : Operand) (s : State), i.operand = some o → i.mnemonic = .adc →
    ∃ t, exec i s = .next t ∧ Adds s.a (load o s).value (s.flag .c) t ∧
      RanWithoutStore i true [.a] [.c, .z, .v, .n] s t

/-- O17 (R171, R282). SBC, 0xEB included, subtracts the operand and the borrow from A -/
def Obligations.SubtractWithCarry : Prop :=
  HasEncodings .sbc
      [(0xE1, .izx, 6), (0xE5, .zp, 3), (0xE9, .imm, 2), (0xEB, .imm, 2), (0xED, .abs, 4),
       (0xF1, .izy, 5), (0xF5, .zpx, 4), (0xF9, .aby, 4), (0xFD, .abx, 4)] ∧
  ∀ (i : Instr) (o : Operand) (s : State), i.operand = some o → i.mnemonic = .sbc →
    ∃ t, exec i s = .next t ∧ Subtracts s.a (load o s).value (s.flag .c) t ∧
      RanWithoutStore i true [.a] [.c, .z, .v, .n] s t

/-- O18 (R188). No instruction reads the Decimal flag: with it changed, the same happens -/
def Obligations.DecimalFlagHasNoEffect : Prop :=
  ∀ (i : Instr) (s : State) (b : Bool), i.mnemonic ∉ [.php, .brk, .plp, .rti, .cld, .sed] →
    ∃ t, exec i s = .next t ∧
      exec i { s with p := setFlag .d b s.p } = .next { t with p := setFlag .d b t.p }

/-- O19 (R172, R173, R174). AND, ORA and EOR combine A with the operand bit by bit and set Z and N -/
def Obligations.BitwiseOperations : Prop :=
  HasEncodings .and
      [(0x21, .izx, 6), (0x25, .zp, 3), (0x29, .imm, 2), (0x2D, .abs, 4), (0x31, .izy, 5),
       (0x35, .zpx, 4), (0x39, .aby, 4), (0x3D, .abx, 4)] ∧
  HasEncodings .ora
      [(0x01, .izx, 6), (0x05, .zp, 3), (0x09, .imm, 2), (0x0D, .abs, 4), (0x11, .izy, 5),
       (0x15, .zpx, 4), (0x19, .aby, 4), (0x1D, .abx, 4)] ∧
  HasEncodings .eor
      [(0x41, .izx, 6), (0x45, .zp, 3), (0x49, .imm, 2), (0x4D, .abs, 4), (0x51, .izy, 5),
       (0x55, .zpx, 4), (0x59, .aby, 4), (0x5D, .abx, 4)] ∧
  ∀ (i : Instr) (o : Operand) (s : State), i.operand = some o →
    (i.mnemonic = .and → ∃ t, exec i s = .next t ∧
      (∀ k, t.a.getLsbD k = (s.a.getLsbD k && (load o s).value.getLsbD k)) ∧ SetsZN t.a t ∧
      RanWithoutStore i true [.a] [.z, .n] s t) ∧
    (i.mnemonic = .ora → ∃ t, exec i s = .next t ∧
      (∀ k, t.a.getLsbD k = (s.a.getLsbD k || (load o s).value.getLsbD k)) ∧ SetsZN t.a t ∧
      RanWithoutStore i true [.a] [.z, .n] s t) ∧
    (i.mnemonic = .eor → ∃ t, exec i s = .next t ∧
      (∀ k, t.a.getLsbD k = (s.a.getLsbD k ^^ (load o s).value.getLsbD k)) ∧ SetsZN t.a t ∧
      RanWithoutStore i true [.a] [.z, .n] s t)

/-- O20 (R178). BIT sets Z from A and the operand, N and V from the operand itself, and changes no register -/
def Obligations.BitTest : Prop :=
  HasEncodings .bit [(0x24, .zp, 3), (0x2C, .abs, 4)] ∧
  ∀ (i : Instr) (o : Operand) (s : State), i.operand = some o → i.mnemonic = .bit →
    ∃ t, exec i s = .next t ∧ (t.flag .z = true ↔ s.a &&& (load o s).value = 0) ∧
      t.flag .n = (load o s).value.getLsbD 7 ∧ t.flag .v = (load o s).value.getLsbD 6 ∧
      RanWithoutStore i false [] [.z, .v, .n] s t

/-- O21 (R175, R176, R177, R186). CMP, CPX and CPY set C, Z and N from the comparison of a register with the
operand, and nothing else -/
def Obligations.Comparisons : Prop :=
  HasEncodings .cmp
      [(0xC1, .izx, 6), (0xC5, .zp, 3), (0xC9, .imm, 2), (0xCD, .abs, 4), (0xD1, .izy, 5),
       (0xD5, .zpx, 4), (0xD9, .aby, 4), (0xDD, .abx, 4)] ∧
  HasEncodings .cpx [(0xE0, .imm, 2), (0xE4, .zp, 3), (0xEC, .abs, 4)] ∧
  HasEncodings .cpy [(0xC0, .imm, 2), (0xC4, .zp, 3), (0xCC, .abs, 4)] ∧
  ∀ (i : Instr) (o : Operand) (s : State), i.operand = some o →
    (i.mnemonic = .cmp → ∃ t, exec i s = .next t ∧ Compares s.a (load o s).value t ∧
      RanWithoutStore i true [] [.c, .z, .n] s t) ∧
    (i.mnemonic = .cpx → ∃ t, exec i s = .next t ∧ Compares s.x (load o s).value t ∧
      RanWithoutStore i false [] [.c, .z, .n] s t) ∧
    (i.mnemonic = .cpy → ∃ t, exec i s = .next t ∧ Compares s.y (load o s).value t ∧
      RanWithoutStore i false [] [.c, .z, .n] s t)

/-- O22 (R179, R180). INC and DEC add or subtract 1 at the effective address modulo 256 and set Z and N -/
def Obligations.MemoryIncrements : Prop :=
  HasEncodings .inc [(0xE6, .zp, 5), (0xEE, .abs, 6), (0xF6, .zpx, 6), (0xFE, .abx, 7)] ∧
  HasEncodings .dec [(0xC6, .zp, 5), (0xCE, .abs, 6), (0xD6, .zpx, 6), (0xDE, .abx, 7)] ∧
  ∀ (i : Instr) (o : Operand) (s : State), i.operand = some o →
    (i.mnemonic = .inc → ∃ t v, exec i s = .next t ∧ v.toNat = ((byteAt o s).toNat + 1) % 256 ∧ SetsZN v t ∧
      RanStoring i (resolve o s).ea v [] [.z, .n] s t) ∧
    (i.mnemonic = .dec → ∃ t v, exec i s = .next t ∧ v.toNat = ((byteAt o s).toNat + 255) % 256 ∧ SetsZN v t ∧
      RanStoring i (resolve o s).ea v [] [.z, .n] s t)

/-- O23 (R181, R182, R183, R184). INX, INY, DEX and DEY add or subtract 1 modulo 256 and set Z and N -/
def Obligations.RegisterIncrements : Prop :=
  HasEncodings .inx [(0xE8, .imp, 2)] ∧
  HasEncodings .iny [(0xC8, .imp, 2)] ∧
  HasEncodings .dex [(0xCA, .imp, 2)] ∧
  HasEncodings .dey [(0x88, .imp, 2)] ∧
  ∀ s : State,
    (∃ t, exec .inx s = .next t ∧ t.x.toNat = (s.x.toNat + 1) % 256 ∧ SetsZN t.x t ∧
      RanWithoutStore .inx false [.x] [.z, .n] s t) ∧
    (∃ t, exec .iny s = .next t ∧ t.y.toNat = (s.y.toNat + 1) % 256 ∧ SetsZN t.y t ∧
      RanWithoutStore .iny false [.y] [.z, .n] s t) ∧
    (∃ t, exec .dex s = .next t ∧ t.x.toNat = (s.x.toNat + 255) % 256 ∧ SetsZN t.x t ∧
      RanWithoutStore .dex false [.x] [.z, .n] s t) ∧
    (∃ t, exec .dey s = .next t ∧ t.y.toNat = (s.y.toNat + 255) % 256 ∧ SetsZN t.y t ∧
      RanWithoutStore .dey false [.y] [.z, .n] s t)

/-- O24 (R200, R201, R202, R203, R204). ASL, LSR, ROL and ROR shift A, or the byte at the effective address, by one
bit through C -/
def Obligations.ShiftsAndRotates : Prop :=
  HasEncodings .asl
      [(0x06, .zp, 5), (0x0A, .imp, 2), (0x0E, .abs, 6), (0x16, .zpx, 6), (0x1E, .abx, 7)] ∧
  HasEncodings .lsr
      [(0x46, .zp, 5), (0x4A, .imp, 2), (0x4E, .abs, 6), (0x56, .zpx, 6), (0x5E, .abx, 7)] ∧
  HasEncodings .rol
      [(0x26, .zp, 5), (0x2A, .imp, 2), (0x2E, .abs, 6), (0x36, .zpx, 6), (0x3E, .abx, 7)] ∧
  HasEncodings .ror
      [(0x66, .zp, 5), (0x6A, .imp, 2), (0x6E, .abs, 6), (0x76, .zpx, 6), (0x7E, .abx, 7)] ∧
  ∀ (i : Instr) (k : ShiftKind) (s : State),
    (k = .asl ∧ i.mnemonic = .asl ∨ k = .lsr ∧ i.mnemonic = .lsr ∨ k = .rol ∧ i.mnemonic = .rol ∨
      k = .ror ∧ i.mnemonic = .ror) →
    (i.operand = none → ∃ t, exec i s = .next t ∧ ShiftsTo k s.a (s.flag .c) t.a ∧
      (t.flag .c = true ↔ ShiftsOut k s.a) ∧ SetsZN t.a t ∧ RanWithoutStore i false [.a] [.c, .z, .n] s t) ∧
    ∀ o, i.operand = some o → ∃ t v, exec i s = .next t ∧ ShiftsTo k (byteAt o s) (s.flag .c) v ∧
      (t.flag .c = true ↔ ShiftsOut k (byteAt o s)) ∧ SetsZN v t ∧
      RanStoring i (resolve o s).ea v [] [.c, .z, .n] s t

/-- O25 (R210). JMP puts the effective address into PC and changes nothing else -/
def Obligations.Jump : Prop :=
  HasEncodings .jmp [(0x4C, .abs, 3), (0x6C, .ind, 5)] ∧
  ∀ (i : Instr) (o : Operand) (s : State), i.operand = some o → i.mnemonic = .jmp →
    ∃ t, exec i s = .next t ∧ t.pc = (resolve o s).ea ∧ Frame [] [] s t ∧ StoresNothing s t ∧
      Charges i.baseCycles false false t

/-- O26 (R211). JSR pushes the address of its last byte, high byte first, and puts its operand into PC -/
def Obligations.Call : Prop :=
  HasEncodings .jsr [(0x20, .abs, 6)] ∧
  ∀ (w : Word) (s : State),
    ∃ t, exec (.jsrAbs w) s = .next t ∧ t.pc = w ∧ t.sp = s.sp - 2 ∧
      StoresBytes [(stackAddress s.sp, hiByte (s.pc - 1)), (stackAddress (s.sp - 1), loByte (s.pc - 1))] s t ∧
      Frame [.s] [] s t ∧ Charges 6 false false t

/-- O27 (R212). RTS pulls a return address, low byte first, and puts it plus 1 into PC -/
def Obligations.Return : Prop :=
  HasEncodings .rts [(0x60, .imp, 6)] ∧
  ∀ s : State,
    ∃ t, exec .rts s = .next t ∧ t.sp = s.sp + 2 ∧ Frame [.s] [] s t ∧ StoresNothing s t ∧ Charges 6 false false t ∧
      (let l := busRead (stackAddress (s.sp + 1)) s
       let h := busRead (stackAddress (s.sp + 2)) l.2
       t.pc = joinBytes h.1 l.1 + 1)

/-- O28 (R27, R28, R211, R212). RTS right after JSR returns to the instruction after the JSR with the stack pointer
restored -/
def Obligations.CallThenReturn : Prop :=
  ∀ (w : Word) (s t : State), s.isMemory (stackAddress s.sp) → exec (.jsrAbs w) s = .next t →
    ∃ u, exec .rts t = .next u ∧ u.pc = s.pc ∧ u.sp = s.sp ∧ u.a = s.a ∧ u.x = s.x ∧ u.y = s.y ∧ u.p = s.p

/-- O29 (R213, R214, R215, R216, R217, R218, R219, R220, R221). The eight branches put the target into PC exactly
when their flag has its value, and change nothing else -/
def Obligations.Branches : Prop :=
  HasEncodings .bcc [(0x90, .rel, 2)] ∧
  HasEncodings .bcs [(0xB0, .rel, 2)] ∧
  HasEncodings .beq [(0xF0, .rel, 2)] ∧
  HasEncodings .bne [(0xD0, .rel, 2)] ∧
  HasEncodings .bmi [(0x30, .rel, 2)] ∧
  HasEncodings .bpl [(0x10, .rel, 2)] ∧
  HasEncodings .bvc [(0x50, .rel, 2)] ∧
  HasEncodings .bvs [(0x70, .rel, 2)] ∧
  ∀ (o : Byte) (s : State),
    let target := (resolve (.rel o) s).ea
    let ran := fun (i : Instr) (cond : Bool) =>
      ∃ t, exec i s = .next t ∧ t.pc = (if cond then target else s.pc) ∧
        Charges 2 (target.toNat / 256 != s.pc.toNat / 256) cond t ∧ Frame [] [] s t ∧ StoresNothing s t
    ((target.toNat : Int) = ((s.pc.toNat : Int) + o.toInt) % 65536) ∧
    ran (.bccRel o) (!s.flag .c) ∧ ran (.bcsRel o) (s.flag .c) ∧
    ran (.bneRel o) (!s.flag .z) ∧ ran (.beqRel o) (s.flag .z) ∧
    ran (.bplRel o) (!s.flag .n) ∧ ran (.bmiRel o) (s.flag .n) ∧
    ran (.bvcRel o) (!s.flag .v) ∧ ran (.bvsRel o) (s.flag .v)

/-- O30 (R27, R28). Push stores at 0x0100 + S and moves S down; Pull moves S up and reads; a pull undoes a push -/
def Obligations.StackDiscipline : Prop :=
  ∀ (v : Byte) (s : State),
    (stackAddress s.sp).toNat = 256 + s.sp.toNat ∧
    StoresByte (stackAddress s.sp) v s (push v s) ∧ (push v s).sp.toNat = (s.sp.toNat + 255) % 256 ∧
    Frame [.s] [] s (push v s) ∧ (push v s).pc = s.pc ∧
    (pull s).2.sp.toNat = (s.sp.toNat + 1) % 256 ∧ (pull s).1 = s.peek (stackAddress (s.sp + 1)) ∧
    (∃ n, (pull s).2 = { s with sp := s.sp + 1, draws := n }) ∧
    (s.isMemory (stackAddress s.sp) → (pull (push v s)).1 = v ∧ (pull (push v s)).2.sp = s.sp)

/-- O31 (R230, R232). PHA pushes A; PHP writes Break 0b11 in P and pushes P -/
def Obligations.Pushes : Prop :=
  HasEncodings .pha [(0x48, .imp, 3)] ∧
  HasEncodings .php [(0x08, .imp, 3)] ∧
  ∀ s : State,
    (∃ t, exec .pha s = .next t ∧ t.sp = s.sp - 1 ∧ RanStoring .pha (stackAddress s.sp) s.a [.s] [] s t) ∧
    (∃ t, exec .php s = .next t ∧ t.sp = s.sp - 1 ∧ t.brk = 0b11 ∧ KeepsFlags [] s t ∧ t.pc = s.pc ∧
      StoresByte (stackAddress s.sp) t.p s t ∧ KeepsRegs [.s] s t ∧ KeepsHidden s t ∧ Charges 3 false false t)

/-- O32 (R231, R233). PLA pulls A and sets Z and N; PLP pulls all eight bits of P -/
def Obligations.Pulls : Prop :=
  HasEncodings .pla [(0x68, .imp, 4)] ∧
  HasEncodings .plp [(0x28, .imp, 4)] ∧
  ∀ s : State,
    (∃ t, exec .pla s = .next t ∧ t.sp = s.sp + 1 ∧ t.a = s.peek (stackAddress (s.sp + 1)) ∧ SetsZN t.a t ∧
      RanWithoutStore .pla false [.a, .s] [.z, .n] s t) ∧
    (∃ t, exec .plp s = .next t ∧ t.sp = s.sp + 1 ∧ t.p = s.peek (stackAddress (s.sp + 1)) ∧ t.pc = s.pc ∧
      KeepsRegs [.s] s t ∧ KeepsHidden s t ∧ StoresNothing s t ∧ Charges 4 false false t)

/-- O33 (R234, R235, R236, R237, R238, R239, R240). CLC, SEC, CLI, SEI, CLD, SED and CLV write their one flag and
nothing else -/
def Obligations.FlagInstructions : Prop :=
  HasEncodings .clc [(0x18, .imp, 2)] ∧
  HasEncodings .sec [(0x38, .imp, 2)] ∧
  HasEncodings .cli [(0x58, .imp, 2)] ∧
  HasEncodings .sei [(0x78, .imp, 2)] ∧
  HasEncodings .cld [(0xD8, .imp, 2)] ∧
  HasEncodings .sed [(0xF8, .imp, 2)] ∧
  HasEncodings .clv [(0xB8, .imp, 2)] ∧
  ∀ s : State,
    let ran := fun (i : Instr) (f : Flag) (b : Bool) =>
      ∃ t, exec i s = .next t ∧ t.flag f = b ∧ RanWithoutStore i false [] [f] s t
    ran .clc .c false ∧ ran .sec .c true ∧ ran .cli .i false ∧ ran .sei .i true ∧ ran .cld .d false ∧
    ran .sed .d true ∧ ran .clv .v false

/-- O34 (R241, R280, R281). NOP in all its encodings and KIL change nothing but PC and the countdown -/
def Obligations.NoOperations : Prop :=
  HasEncodings .nop
      [(0x04, .zp, 3), (0x0C, .abs, 4), (0x14, .zpx, 4), (0x1A, .imp, 2), (0x1C, .abx, 4),
       (0x34, .zpx, 4), (0x3A, .imp, 2), (0x3C, .abx, 4), (0x44, .zp, 3), (0x54, .zpx, 4),
       (0x5A, .imp, 2), (0x5C, .abx, 4), (0x64, .zp, 3), (0x74, .zpx, 4), (0x7A, .imp, 2),
       (0x7C, .abx, 4), (0x80, .imm, 2), (0x82, .imm, 2), (0x89, .imm, 2), (0xC2, .imm, 2),
       (0xD4, .zpx, 4), (0xDA, .imp, 2), (0xDC, .abx, 4), (0xE2, .imm, 2), (0xEA, .imp, 2),
       (0xF4, .zpx, 4), (0xFA, .imp, 2), (0xFC, .abx, 4)] ∧
  HasEncodings .kil
      [(0x02, .imp, 2), (0x12, .imp, 2), (0x22, .imp, 2), (0x32, .imp, 2), (0x42, .imp, 2),
       (0x52, .imp, 2), (0x62, .imp, 2), (0x72, .imp, 2), (0x92, .imp, 2), (0xB2, .imp, 2),
       (0xD2, .imp, 2), (0xF2, .imp, 2)] ∧
  ∀ (i : Instr) (s : State), i.mnemonic = .nop ∨ i.mnemonic = .kil →
    ∃ t, exec i s = .next t ∧ RanWithoutStore i true [] [] s t ∧ t.p = s.p ∧
      ∀ o, i.operand = some o → t.draws = (resolve o s).state.draws

/-- O35 (R242). BRK pushes PC + 1 and P with Break 0b11, sets I and loads PC from 0xFFFE; the latches stay -/
def Obligations.SoftwareBreak : Prop :=
  HasEncodings .brk [(0x00, .imp, 7)] ∧
  ∀ s : State,
    ∃ (t : State) (q : Byte), exec .brk s = .next t ∧
      getBreak q = 0b11 ∧ (∀ f, getFlag f q = s.flag f) ∧
      StoresBytes [(stackAddress s.sp, hiByte (s.pc + 1)), (stackAddress (s.sp - 1), loByte (s.pc + 1)),
        (stackAddress (s.sp - 2), q)] s t ∧
      t.sp = s.sp - 3 ∧ KeepsRegs [.s] s t ∧ t.flag .i = true ∧ KeepsFlags [.i] s t ∧ t.brk = 0b11 ∧
      KeepsHidden s t ∧ Charges 7 false false t ∧
      (s.plain 0xFFFE → s.plain 0xFFFF → t.pc = joinBytes (t.stored 0xFFFF) (t.stored 0xFFFE))

/-- O36 (R243). RTI pulls P, then PC low, then PC high, and adds nothing -/
def Obligations.ReturnFromInterrupt : Prop :=
  HasEncodings .rti [(0x40, .imp, 6)] ∧
  ∀ s : State,
    ∃ t, exec .rti s = .next t ∧ t.sp = s.sp + 3 ∧ KeepsRegs [.s] s t ∧ StoresNothing s t ∧ KeepsHidden s t ∧
      Charges 6 false false t ∧
      (let p := busRead (stackAddress (s.sp + 1)) s
       let l := busRead (stackAddress (s.sp + 2)) p.2
       let h := busRead (stackAddress (s.sp + 3)) l.2
       t.p = p.1 ∧ t.pc = joinBytes h.1 l.1)

/-- O37 (R260, R261). Under stub a named illegal opcode runs its addressing mode and does nothing else -/
def Obligations.IllegalUnderStub : Prop :=
  ∀ (i : Instr) (s : State), s.launch.illegal = .stub →
    i.mnemonic ∈ [.slo, .rla, .sre, .rra, .sax, .lax, .dcp, .isc, .anc, .alr, .arr, .xaa, .axs, .ahx, .shy, .shx, .tas,
      .las] →
    ∃ t, exec i s = .next t ∧ RanWithoutStore i (decide (i.mnemonic ∈ [.lax, .las])) [] [] s t ∧ t.p = s.p ∧
      ∀ o, i.operand = some o → t.draws = (resolve o s).state.draws

/-- O38 (R261, R262, R263, R264, R265, R268, R269). Under reference, SLO, RLA, SRE, RRA, DCP and ISC modify the byte
at ea, then use it with A -/
def Obligations.IllegalCombinations : Prop :=
  HasEncodings .slo
      [(0x03, .izx, 8), (0x07, .zp, 5), (0x0F, .abs, 6), (0x13, .izy, 8), (0x17, .zpx, 6),
       (0x1B, .aby, 7), (0x1F, .abx, 7)] ∧
  HasEncodings .rla
      [(0x23, .izx, 8), (0x27, .zp, 5), (0x2F, .abs, 6), (0x33, .izy, 8), (0x37, .zpx, 6),
       (0x3B, .aby, 7), (0x3F, .abx, 7)] ∧
  HasEncodings .sre
      [(0x43, .izx, 8), (0x47, .zp, 5), (0x4F, .abs, 6), (0x53, .izy, 8), (0x57, .zpx, 6),
       (0x5B, .aby, 7), (0x5F, .abx, 7)] ∧
  HasEncodings .rra
      [(0x63, .izx, 8), (0x67, .zp, 5), (0x6F, .abs, 6), (0x73, .izy, 8), (0x77, .zpx, 6),
       (0x7B, .aby, 7), (0x7F, .abx, 7)] ∧
  HasEncodings .dcp
      [(0xC3, .izx, 8), (0xC7, .zp, 5), (0xCF, .abs, 6), (0xD3, .izy, 8), (0xD7, .zpx, 6),
       (0xDB, .aby, 7), (0xDF, .abx, 7)] ∧
  HasEncodings .isc
      [(0xE3, .izx, 8), (0xE7, .zp, 5), (0xEF, .abs, 6), (0xF3, .izy, 8), (0xF7, .zpx, 6),
       (0xFB, .aby, 7), (0xFF, .abx, 7)] ∧
  ∀ (i : Instr) (o : Operand) (s : State), i.operand = some o → s.launch.illegal = .reference →
    let m := byteAt o s
    (i.mnemonic = .slo → ∃ t v, exec i s = .next t ∧ ShiftsTo .asl m (s.flag .c) v ∧ t.a = s.a ||| v ∧
      (t.flag .c = true ↔ ShiftsOut .asl m) ∧ SetsZN t.a t ∧ RanStoring i (resolve o s).ea v [.a] [.c, .z, .n] s t) ∧
    (i.mnemonic = .rla → ∃ t v, exec i s = .next t ∧ ShiftsTo .rol m (s.flag .c) v ∧ t.a = s.a &&& v ∧
      (t.flag .c = true ↔ ShiftsOut .rol m) ∧ SetsZN t.a t ∧ RanStoring i (resolve o s).ea v [.a] [.c, .z, .n] s t) ∧
    (i.mnemonic = .sre → ∃ t v, exec i s = .next t ∧ ShiftsTo .lsr m (s.flag .c) v ∧ t.a = s.a ^^^ v ∧
      (t.flag .c = true ↔ ShiftsOut .lsr m) ∧ SetsZN t.a t ∧ RanStoring i (resolve o s).ea v [.a] [.c, .z, .n] s t) ∧
    (i.mnemonic = .rra → ∃ t v, exec i s = .next t ∧ ShiftsTo .ror m (s.flag .c) v ∧
      Adds s.a v (decide (m.toNat % 2 = 1)) t ∧ RanStoring i (resolve o s).ea v [.a] [.c, .z, .v, .n] s t) ∧
    (i.mnemonic = .dcp → ∃ t v, exec i s = .next t ∧ v.toNat = (m.toNat + 255) % 256 ∧ Compares s.a v t ∧
      RanStoring i (resolve o s).ea v [] [.c, .z, .n] s t) ∧
    (i.mnemonic = .isc → ∃ t v, exec i s = .next t ∧ v.toNat = (m.toNat + 1) % 256 ∧ Subtracts s.a v (s.flag .c) t ∧
      RanStoring i (resolve o s).ea v [.a] [.c, .z, .v, .n] s t)

/-- O39 (R261, R266, R267, R279). Under reference, SAX stores A and X, LAX loads A and X, LAS loads A, X and S with
m and S -/
def Obligations.IllegalLoadsAndStores : Prop :=
  HasEncodings .sax [(0x83, .izx, 6), (0x87, .zp, 3), (0x8F, .abs, 4), (0x97, .zpy, 4)] ∧
  HasEncodings .lax
      [(0xA3, .izx, 6), (0xA7, .zp, 3), (0xAB, .imm, 2), (0xAF, .abs, 4), (0xB3, .izy, 5),
       (0xB7, .zpy, 4), (0xBF, .aby, 4)] ∧
  HasEncodings .las [(0xBB, .aby, 4)] ∧
  ∀ (i : Instr) (o : Operand) (s : State), i.operand = some o → s.launch.illegal = .reference →
    (i.mnemonic = .sax → ∃ t, exec i s = .next t ∧ RanStoring i (resolve o s).ea (s.a &&& s.x) [] [] s t) ∧
    (i.mnemonic = .lax → formatOf i ≠ .imm → ∃ t, exec i s = .next t ∧ t.a = (load o s).value ∧ t.x = t.a ∧
      SetsZN t.a t ∧ RanWithoutStore i true [.a, .x] [.z, .n] s t) ∧
    (i.mnemonic = .las → ∃ t, exec i s = .next t ∧ t.a = (load o s).value &&& s.sp ∧ t.x = t.a ∧ t.sp = t.a ∧
      SetsZN t.a t ∧ RanWithoutStore i true [.a, .x, .s] [.z, .n] s t)

/-- O40 (R261, R270, R271, R272, R274). Under reference, ANC, ALR, ARR and AXS compute from A and the immediate byte
as their rules say -/
def Obligations.IllegalImmediates : Prop :=
  HasEncodings .anc [(0x0B, .imm, 2), (0x2B, .imm, 2)] ∧
  HasEncodings .alr [(0x4B, .imm, 2)] ∧
  HasEncodings .arr [(0x6B, .imm, 2)] ∧
  HasEncodings .axs [(0xCB, .imm, 2)] ∧
  ∀ (i : Instr) (b : Byte) (s : State), i.operand = some (.imm b) → s.launch.illegal = .reference →
    (i.mnemonic = .anc → ∃ t, exec i s = .next t ∧ t.a = s.a &&& b ∧ t.flag .c = t.flag .n ∧ SetsZN t.a t ∧
      RanWithoutStore i false [.a] [.c, .z, .n] s t) ∧
    (i.mnemonic = .alr → ∃ t, exec i s = .next t ∧ ShiftsTo .lsr (s.a &&& b) false t.a ∧
      (t.flag .c = true ↔ ShiftsOut .lsr (s.a &&& b)) ∧ SetsZN t.a t ∧
      RanWithoutStore i false [.a] [.c, .z, .n] s t) ∧
    (i.mnemonic = .arr → ∃ t, exec i s = .next t ∧ ShiftsTo .ror (s.a &&& b) (s.flag .c) t.a ∧
      t.flag .c = t.a.getLsbD 6 ∧ t.flag .v = (t.a.getLsbD 6 ^^ t.a.getLsbD 5) ∧ SetsZN t.a t ∧
      RanWithoutStore i false [.a] [.c, .z, .v, .n] s t) ∧
    (i.mnemonic = .axs → ∃ t, exec i s = .next t ∧
      (t.x.toNat : Int) = (((s.a &&& s.x).toNat : Int) - b.toNat) % 256 ∧
      (t.flag .c = true ↔ b.toNat ≤ (s.a &&& s.x).toNat) ∧ SetsZN t.x t ∧
      RanWithoutStore i false [.x] [.c, .z, .n] s t)

/-- O41 (R261, R267, R273, R275, R276, R277, R278). Under reference, the unstable opcodes run, with the open values
unknown; S after TAS and LAX flags are log 12's choice -/
def Obligations.IllegalUnstable : Prop :=
  HasEncodings .xaa [(0x8B, .imm, 2)] ∧
  HasEncodings .ahx [(0x93, .izy, 6), (0x9F, .aby, 5)] ∧
  HasEncodings .shy [(0x9C, .abx, 5)] ∧
  HasEncodings .shx [(0x9E, .aby, 5)] ∧
  HasEncodings .tas [(0x9B, .aby, 5)] ∧
  ∀ (i : Instr) (o : Operand) (s : State), i.operand = some o → s.launch.illegal = .reference →
    (i.mnemonic = .xaa → ∃ t, exec i s = .next t ∧ RanWithoutStore i false [.a] [.z, .n] s t) ∧
    (i.mnemonic = .lax → formatOf i = .imm → ∃ t, exec i s = .next t ∧ t.x = t.a ∧ SetsZN t.a t ∧
      RanWithoutStore i true [.a, .x] [.z, .n] s t) ∧
    (i.mnemonic = .ahx ∨ i.mnemonic = .shy ∨ i.mnemonic = .shx →
      ∃ t v, exec i s = .next t ∧ RanStoring i (resolve o s).ea v [] [] s t ∧ t.p = s.p) ∧
    (i.mnemonic = .tas → ∃ t v, exec i s = .next t ∧ t.sp = s.a &&& s.x ∧
      RanStoring i (resolve o s).ea v [.s] [] s t ∧ t.p = s.p)

/-- O42 (R374, R376). NMI, and IRQ when I is clear and no NMI is pending, run the acknowledge sequence in place of a
fetch -/
def Obligations.InterruptAcknowledge : Prop :=
  ∀ (s : State) (nmi : Bool),
    s.cyclesLeft = 0 → (if nmi then s.nmiPending = true else
      s.nmiPending = false ∧ s.irqPending = true ∧ s.flag .i = false) →
    let vector : Word := if nmi then 0xFFFA else 0xFFFE
    ∃ (t : State) (q : Byte), cpuClock s = .next t ∧
      getBreak q = 0b10 ∧ (∀ f, getFlag f q = s.flag f) ∧
      StoresBytes [(stackAddress s.sp, hiByte s.pc), (stackAddress (s.sp - 1), loByte s.pc),
        (stackAddress (s.sp - 2), q)] s t ∧
      t.sp = s.sp - 3 ∧ KeepsRegs [.s] s t ∧ t.flag .i = true ∧ KeepsFlags [.i] s t ∧ t.brk = 0b10 ∧
      t.nmiPending = false ∧ t.irqPending = (nmi && s.irqPending) ∧ KeepsMachine s t ∧ t.cyclesLeft = 6 ∧
      (s.plain vector → s.plain (vector + 1) → t.pc = joinBytes (t.stored (vector + 1)) (t.stored vector))

/-- O43 (R373). An IRQ pending while I is set is held or dropped by policy, and the instruction is fetched -/
def Obligations.MaskedInterruptRequest : Prop :=
  ∀ s : State, s.cyclesLeft = 0 → s.nmiPending = false →
    (s.irqPending = true → s.flag .i = true →
      (s.launch.irqMasked = .hold → cpuClock s = countDown (fetchAndExecute s)) ∧
      (s.launch.irqMasked = .drop → cpuClock s = countDown (fetchAndExecute { s with irqPending := false }))) ∧
    (s.irqPending = false → cpuClock s = countDown (fetchAndExecute s)) ∧
    (s.irqPending = true → s.flag .i = false → cpuClock s = countDown (.next (acknowledge .irq s))) ∧
    (∀ r : State, r.cyclesLeft = 0 → r.nmiPending = true → cpuClock r = countDown (.next (acknowledge .nmi r)))

/-- O44 (R243, R376, R377, R380). RTI right after an interrupt entry resumes the interrupted program with every flag
restored -/
def Obligations.InterruptThenReturn : Prop :=
  ∀ (s : State) (kind : InterruptKind), s.isMemory (stackAddress s.sp) → kind ≠ .brk →
    ∃ u, exec .rti (takeException kind s) = .next u ∧ u.pc = s.pc ∧ u.sp = s.sp ∧ KeepsRegs [] s u ∧
      KeepsFlags [] s u ∧ u.brk = 0b10 ∧ KeepsMachine s u ∧
      u.nmiPending = (s.nmiPending && decide (kind ≠ .nmi)) ∧ u.irqPending = (s.irqPending && decide (kind ≠ .irq))

/-- O45 (R400, R406, R407). Reset sets registers, countdown and latches as R400 says; NMI() and IRQ() each set their
one latch and change nothing else -/
def Obligations.HostEntryPoints : Prop :=
  (∀ s : State,
    let t := resetCpu s
    let l := busRead 0xFFFC s
    let h := busRead 0xFFFD l.2
    t.a = 0 ∧ t.x = 0 ∧ t.y = 0 ∧ t.sp = 0xFF ∧ t.p = s.launch.resetP ∧ t.pc = joinBytes h.1 l.1 ∧
    t.cyclesLeft = 0 ∧ t.nmiPending = false ∧ t.irqPending = false ∧
    StoresNothing s t ∧ t.slots = s.slots ∧ t.ppu = s.ppu ∧ t.launch = s.launch ∧ t.frameDone = s.frameDone) ∧
  ∀ s : State,
    (raiseNmi s = { s with nmiPending := true } ∧ raiseIrq s = { s with irqPending := true }) ∧
    (s.nmiPending = true → raiseNmi s = s) ∧ (s.irqPending = true → raiseIrq s = s) ∧
    (∀ n, s.cyclesLeft = n + 1 →
      cpuClock (raiseNmi s) = .next { s with nmiPending := true, cyclesLeft := n } ∧
      cpuClock (raiseIrq s) = .next { s with irqPending := true, cyclesLeft := n }) ∧
    (s.cyclesLeft = 0 →
      cpuClock (raiseNmi s) = countDown (.next (acknowledge .nmi (raiseNmi s))) ∧
      (s.nmiPending = false → cpuClock (raiseIrq s) =
        countDown (if s.flag .i then fetchAndExecute (settleMaskedIrq (raiseIrq s))
          else .next (acknowledge .irq (raiseIrq s)))))

/-- O46 (R46, R47, R75, R400). The reset state (parameters and blank stores are the model's choice, logs 1 to 8) is
what Reset leaves, and is sound -/
def Obligations.ResetStateIsSound : Prop :=
  (construct Config.defaultLaunch Config.defaultMap).map resetCpu = some State.reset ∧
  State.reset.a = 0 ∧ State.reset.x = 0 ∧ State.reset.y = 0 ∧ State.reset.sp = 0xFF ∧
  State.reset.cyclesLeft = 0 ∧ State.reset.nmiPending = false ∧ State.reset.irqPending = false ∧
  State.reset.ppu.cycle = 0 ∧ State.reset.ppu.scanline = -1 ∧ State.reset.ppu.active = 0 ∧
  State.reset.wf

/-- O47 (R32, R36, R40, R41, R44, R338, R340, R402). Every step keeps the machine sound: stores canonical (log 7)
and in range, counters in range, countdown short -/
def Obligations.StepKeepsSound : Prop :=
  ∀ s t : State, s.wf → step s = .next t → t.wf

/-- O48 (R66). An empty slot reads 0x00, drops writes, fetches BRK and gives the vector 0x0000 -/
def Obligations.UnmappedSlots : Prop :=
  ∀ (s : State) (a : Word) (v : Byte), s.slots.get (slotOf a).toFin = none →
    busRead a s = (0x00, s) ∧ busWrite a v s = s ∧ (busRead a (busWrite a v s)).1 = 0x00 ∧
    (s.pc = a → fetch s = .ok (.brk, { s with pc := a + 1 })) ∧
    ∀ b : Word, s.slots.get (slotOf b).toFin = none → readPair a b s = (0x0000, s)

/-- O49 (R303, R304). In the Flat device every address is a cell of its own; in the Banked device RAM addresses with
the same low 11 bits are one cell -/
def Obligations.MemoryDeviceCells : Prop :=
  ∀ (s : State) (a : Word) (v : Byte),
    (s.deviceAt a = some .flat →
      busRead a s = (s.flat.get a.toNat, s) ∧
      busWrite a v s = { s with flat := (busWrite a v s).flat } ∧
      (∀ k, (busWrite a v s).flat.get k = if k = a.toNat then v else s.flat.get k) ∧
      ∀ b : Word, s.deviceAt b = some .flat → b ≠ a →
        s.translate b ≠ s.translate a ∧ (busRead b (busWrite a v s)).1 = (busRead b s).1) ∧
    (s.deviceAt a ≠ some .flat → (busWrite a v s).flat = s.flat ∧ ∀ k, s.translate a ≠ some (.flat k)) ∧
    (s.deviceAt a = some .banked →
      (a.toNat < 0x2000 →
        (busRead a s).1 = s.ram.get (a.toNat % 0x800) ∧ (busWrite a v s).ram.get (a.toNat % 0x800) = v ∧
        ∀ b : Word, s.deviceAt b = some .banked → b.toNat < 0x2000 →
          (busRead b (busWrite a v s)).1 = if b.toNat % 0x800 = a.toNat % 0x800 then v else (busRead b s).1) ∧
      (0x2000 ≤ a.toNat → (busWrite a v s).ram = s.ram))

/-- O50 (R305, R306, R307). In the Banked device, bit 14 selects the bank, an aliased high bank repeats the low one,
and writes store -/
def Obligations.RomBanks : Prop :=
  ∀ (s : State) (a : Word) (v : Byte), s.deviceAt a = some .banked → 0x2000 ≤ a.toNat →
    (a.getLsbD 14 = false ∨ s.bankHi = .mirrored →
      (busRead a s).1 = s.bankLo.get (a.toNat % 0x4000) ∧ busWrite a v s =
        { s with bankLo := s.bankLo.set (a.toNat % 0x4000) v }) ∧
    (∀ m, a.getLsbD 14 = true → s.bankHi = .own m →
      (busRead a s).1 = m.get (a.toNat % 0x4000) ∧
      busWrite a v s = { s with bankHi := .own (m.set (a.toNat % 0x4000) v) }) ∧
    (busRead a (busWrite a v s)).1 = v ∧
    (s.bankHi = .mirrored → ∀ b : Word, s.deviceAt b = some .banked → 0x2000 ≤ b.toNat →
      b.toNat % 0x4000 = a.toNat % 0x4000 → (busRead b s).1 = (busRead a s).1 ∧ (busRead b (busWrite a v s)).1 = v)

/-- O51 (R300). RegisterDevice fails without effect on a bad range or an occupied slot, and otherwise binds exactly
the range -/
def Obligations.Registration : Prop :=
  ∀ (d : Device) (start : Word) (count : Nat) (slots : Vector (Option Device) 16),
    let first := start.toNat / 4096
    (registerDevice d start count slots = none ↔
      count < 1 ∨ 16 < count ∨ 16 < first + count ∨
        ∃ k : Fin 16, first ≤ k.val ∧ k.val < first + count ∧ slots.get k ≠ none) ∧
    ∀ after, registerDevice d start count slots = some after →
      ∀ k : Fin 16, after.get k = if first ≤ k.val ∧ k.val < first + count then some d else slots.get k

/-- O52 (R330, R331, R332, R333). A store in the PPU window sets register a & 7 and nothing else; a load there
changes no machine state -/
def Obligations.PpuRegisterWindow : Prop :=
  ∀ (s : State) (a : Word) (v : Byte), s.deviceAt a = some .ppu →
    (busWrite a v s).ppu.reg.get (a.extractLsb' 0 3).toFin = v ∧
    (∀ k : Fin 8, k.val ≠ a.toNat % 8 → (busWrite a v s).ppu.reg.get k = s.ppu.reg.get k) ∧
    busWrite a v s = { s with ppu := { s.ppu with reg := (busWrite a v s).ppu.reg } } ∧
    (∃ n, (busRead a s).2 = { s with draws := n }) ∧
    ∀ b : Word, s.deviceAt b = some .ppu → b.toNat % 8 = a.toNat % 8 → s.translate b = s.translate a

/-- O53 (R8, R35, R37, R334, R341). No step changes pattern memory, nametables, palette or OAM, the slot table,
HIGH_BANK or the launch -/
def Obligations.VideoStateUntouched : Prop :=
  ∀ s t : State, step s = .next t →
    t.ppu.chr = s.ppu.chr ∧ t.ppu.nt = s.ppu.nt ∧ t.ppu.pal = s.ppu.pal ∧ t.ppu.oam = s.ppu.oam ∧
    t.slots = s.slots ∧ (t.bankHi = .mirrored ↔ s.bankHi = .mirrored) ∧ t.launch = s.launch ∧
    (∀ v u, cpuClock s = .next u → videoRead v u = videoRead v s) ∧
    (∀ u, cpuClock s = .next u → KeepsVideo s u)

/-- O54 (R343). The PPU reports a complete frame at every 89342nd clock and no other, with the counters as R343
lists -/
def Obligations.FrameTiming : Prop :=
  ∀ (u : Ppu) (size n : Nat), u.cycle = 0 → u.scanline = -1 →
    let v := Ppu.afterClocks size n u
    v.cycle = n % 262 ∧ v.scanline = ((n / 262 % 341 : Nat) : Int) - 1 ∧
    v.active.val = (u.active.val + n / 89342) % 2 ∧
    ((v.clock size).2 = true ↔ (n + 1) % 89342 = 0)

/-- O55 (R8, R341, R342). A PPU clock reads and writes only the counters, the active index, the draws and the one
pixel that log 11's draw places in the active buffer -/
def Obligations.PpuClockFrame : Prop :=
  ∀ (s : State),
    let u := (ppuClock s).1.ppu
    let size := s.launch.frameWidth * s.launch.frameHeight
    let k := Config.pixelPlace s.ppu.pixelDraws s.ppu.cycle s.ppu.scanline % size
    (ppuClock s).1 = { s with ppu := u } ∧
    u.reg = s.ppu.reg ∧ u.chr = s.ppu.chr ∧ u.nt = s.ppu.nt ∧ u.pal = s.ppu.pal ∧ u.oam = s.ppu.oam ∧
    u.frame.get (1 - s.ppu.active) = s.ppu.frame.get (1 - s.ppu.active) ∧
    (∀ j, (u.frame.get s.ppu.active).get j =
      if j = k then Config.pixelValue s.ppu.pixelDraws else (s.ppu.frame.get s.ppu.active).get j) ∧
    (s.launch.wellFormed = true → k < size) ∧
    ∀ r : Ppu,
      ppuClock { s with ppu := { s.ppu with reg := r.reg, chr := r.chr, nt := r.nt, pal := r.pal, oam := r.oam } } =
        ({ s with ppu := { u with reg := r.reg, chr := r.chr, nt := r.nt, pal := r.pal, oam := r.oam } },
          (ppuClock s).2)

/-- O56 (R335, R336, R337, R338, R339, R388). Video addresses decode by region: pattern bytes, mirrored nametables,
aliased palette entries, and refusal -/
def Obligations.VideoMemory : Prop :=
  ∀ (s : State) (v : Word) (b : Byte),
    (0x4000 ≤ v.toNat → videoRead v s = .error (.videoAddress v) ∧ videoWrite v b s = .error (.videoAddress v)) ∧
    (v.toNat < 0x4000 → ∃ t, videoWrite v b s = .ok t ∧ t = { s with ppu := t.ppu } ∧
      ∀ w : Word, w.toNat < 0x4000 →
        let table := fun a : Word => a.toNat / 1024 % 4
        let merged : Prop := match s.launch.mirroring with
          | .vertical => table v % 2 = table w % 2
          | .horizontal => table v / 2 = table w / 2
          | .single => True
          | .four => table v = table w
        let entry := fun a : Word => if a.toNat % 32 ∈ [0x10, 0x14, 0x18, 0x1C] then a.toNat % 32 - 0x10 else a.toNat % 32
        let same : Prop :=
          v.toNat < 0x2000 ∧ v = w ∨
          v.toNat / 4096 = 2 ∧ w.toNat / 4096 = 2 ∧ v.toNat % 1024 = w.toNat % 1024 ∧ merged ∨
          v.toNat / 4096 = 3 ∧ w.toNat / 4096 = 3 ∧ entry v = entry w
        (same → videoRead w t = .ok b) ∧ (¬ same → videoRead w t = videoRead w s))

/-- O57 (R345, R346, R347, R348). Tile pixels combine the two bit planes, and palette colours read palette memory
through the alias rule -/
def Obligations.TilesAndColours : Prop :=
  ∀ (s : State) (palette : BitVec 3) (leftHalf : Bool),
    (∀ (table : Bool) (t : Byte) (r c : BitVec 3),
      (tilePixel s.ppu table t r c).toNat =
        2 * ((s.ppu.chr.get (table.toNat * 4096 + t.toNat * 16 + r.toNat + 8)).getLsbD (7 - c.toNat)).toNat +
        ((s.ppu.chr.get (table.toNat * 4096 + t.toNat * 16 + r.toNat)).getLsbD (7 - c.toNat)).toNat) ∧
    (∀ index : BitVec 2, ∃ e : Byte,
      videoRead (BitVec.ofNat 16 (0x3F00 + 4 * palette.toNat + index.toNat)) s = .ok e ∧
      (getPaletteColor palette index s).toNat = e.toNat % 64) ∧
    (∀ x y : Nat, x < 128 → y < 128 →
      ((getPatternTable palette leftHalf s)[y]?.bind fun row => row[x]?) =
        some (getPaletteColor palette (tilePixel s.ppu (!leftHalf) (BitVec.ofNat 8 (y / 8 * 16 + x / 8))
          (BitVec.ofNat 3 (y % 8)) (BitVec.ofNat 3 (x % 8))) s)) ∧
    getScreen s = s.ppu.frame.get (1 - s.ppu.active)

/-- O58 (R78, R341, R405). A PPU clock and a CPU clock commute: the order inside a system tick (log 14) cannot be
observed (free register reads: log 10) -/
def Obligations.TickOrderIsUnobservable : Prop :=
  ∀ s : State, ∃ t, cpuClock s = .next t ∧ cpuClock (ppuClock s).1 = .next (ppuClock t).1 ∧
    (ppuClock t).2 = (ppuClock s).2 ∧
    ∀ u : State, step u = cpuClock (ppuClocks 3 { u with frameDone := false })

/-- O59 (R37, R310, R311, R312). What a loader leaves: banks, HIGH_BANK and pattern memory hold the image's bytes;
HIGH_BANK never goes back to alias (logs 9, 21) -/
def Obligations.LoadContract : Prop :=
  (∀ (image : List Byte) (s t : State), loadCartridge image s = some t →
    let off := 16 + if (image.getD 6 0).getLsbD 3 then 512 else 0
    let banks := (image.getD 4 0).toNat
    (∀ k < 16384, t.bankLo.get k = image.getD (off + k) 0) ∧
    (banks = 1 ∧ s.bankHi = .mirrored ∧ t.bankHi = .mirrored ∨
      banks = 2 ∧ ∃ m, t.bankHi = .own m ∧ ∀ k < 16384, m.get k = image.getD (off + 16384 + k) 0) ∧
    (image.getD 5 0 ≠ 0 → ∀ k < 8192, t.ppu.chr.get k = image.getD (off + 16384 * banks + k) 0) ∧
    (image.getD 5 0 = 0 → t.ppu.chr = s.ppu.chr) ∧
    t = { s with bankLo := t.bankLo, bankHi := t.bankHi, ppu := { s.ppu with chr := t.ppu.chr } }) ∧
  (∀ (image : List Byte) (s : State),
    let off := 16 + if (image.getD 6 0).getLsbD 3 then 512 else 0
    let banks := (image.getD 4 0).toNat
    (banks = 1 ∧ s.bankHi = .mirrored ∨ banks = 2 →
      off + 16384 * banks + (if image.getD 5 0 = 0 then 0 else 8192) ≤ image.length →
        ∃ t, loadCartridge image s = some t) ∧
    (banks = 1 → s.bankHi ≠ .mirrored → loadCartridge image s = none)) ∧
  (∀ (l : Launch) (m : PlatformMap) (s : State), construct l m = some s → s.bankHi = .mirrored) ∧
  ∀ (fresh : Memory) (s : State),
    getRomBuffer .low fresh s = (s.bankLo, s) ∧
    (s.bankHi = .mirrored → getRomBuffer .high fresh s = (fresh, { s with bankHi := .own fresh })) ∧
    ∀ m, s.bankHi = .own m → getRomBuffer .high fresh s = (m, s)

/-- O60 (R110, R118, R119). Disassemble lists each instruction with its text and length up to its ceilings, changing
nothing; with no ceiling it answers none (the model's choice, log 20) -/
def Obligations.Disassembly : Prop :=
  (∀ (start : Word) (count maxBytes : Nat) (s : State),
    (count = 0 → maxBytes = 0 → disassemble start count maxBytes s = none) ∧
    (count ≠ 0 ∨ maxBytes ≠ 0 → ∃ (lines : List Line) (t : State),
      let used := fun k => ((lines.take k).map Line.length).sum
      let total := (lines.map Line.length).sum
      disassemble start count maxBytes s = some (lines, t) ∧ (∃ n, t = { s with draws := n }) ∧
      (∀ k line, lines[k]? = some line →
        line.address = start + BitVec.ofNat 16 (used k) ∧
        ∃ i : Instr, line.text = String.ofList (instrText line.address i) ∧ line.length = i.length ∧
          (s.plain line.address → i.opcode = s.stored line.address) ∧
          ((∀ j < i.length, s.plain (line.address + BitVec.ofNat 16 j)) →
            ((List.range i.length).map fun j => s.stored (line.address + BitVec.ofNat 16 j)) = encode i)) ∧
      (count ≠ 0 → lines.length ≤ count) ∧ (maxBytes ≠ 0 → total ≤ maxBytes) ∧
      (count = 0 ∨ lines.length < count → maxBytes ≠ 0 ∧ ∃ op : Byte, maxBytes < total + instrLength op ∧
        (s.plain (start + BitVec.ofNat 16 total) → op = s.stored (start + BitVec.ofNat 16 total)))) ∧
    (count = 1 → maxBytes = 0 → (∀ k < 3, s.plain (start + BitVec.ofNat 16 k)) →
      s.stored start = 0x0D → s.stored (start + 1) = 0xCD → s.stored (start + 2) = 0xAB →
      ∃ t, disassemble start count maxBytes s = some ([⟨start, "ORA $ABCD", 3⟩], t))) ∧
  [Instr.clc, .aslAcc, .ldaImm 0x10, .staZp 0x00, .ldaZpx 0xF0, .ldxZpy 0xFF, .oraAbs 0xABCD, .ldaAbx 0x12F0,
    .ldaAby 0x02FF, .jmpInd 0x0120, .ldaIzx 0x20, .ldaIzy 0x86, .bneRel 0x03].map
      (fun i => String.ofList (instrText 0x8000 i)) =
    ["CLC", "ASL", "LDA #$10", "STA $00", "LDA $F0,X", "LDX $FF,Y", "ORA $ABCD", "LDA $12F0,X", "LDA $02FF,Y",
      "JMP ($0120)", "LDA ($20,X)", "LDA ($86),Y", "BNE $8005"]
end

