-- ==== Sys2Proof/Laws/Memory.lean ====
section
/-! SUPPORT. The laws of a byte store: read after write, and that every write keeps the canonical form. -/

namespace Sys2Proof.Machine

theorem Memory.get_erase (m : Memory) (k j : Nat) :
    (m.erase k).get j = if j = k then Config.blankByte else m.get j := by
  induction m with
  | nil => simp [Memory.erase, Memory.get]
  | cons c m ih =>
    obtain ⟨i, b⟩ := c
    simp only [Memory.erase, Memory.get]
    by_cases hik : i = k
    · subst hik
      by_cases hj : j = i
      · subst hj
        simp [ih]
      · simp [ih, hj, Ne.symm hj]
    · simp only [hik, if_false, Memory.get, ih]
      by_cases hij : i = j
      · subst hij
        simp [hik]
      · simp [hij]

theorem Memory.get_insert (m : Memory) (k j : Nat) (v : Byte) :
    (m.insert k v).get j = if j = k then v else m.get j := by
  induction m with
  | nil => simp [Memory.insert, Memory.get, eq_comm]
  | cons c m ih =>
    obtain ⟨i, b⟩ := c
    simp only [Memory.insert]
    split
    · rename_i h
      simp only [Memory.get, ih]
      by_cases hij : i = j
      · subst hij
        simp [Nat.ne_of_lt h]
      · simp [hij]
    · split
      · rename_i h
        subst h
        simp only [Memory.get]
        by_cases hij : i = j
        · simp [hij]
        · simp [hij, Ne.symm hij]
      · simp only [Memory.get]
        by_cases hkj : k = j
        · simp [hkj]
        · simp [hkj, Ne.symm hkj]

/-- R77 (1): a read returns the byte last written at its index, and a write leaves every other index alone. -/
theorem Memory.get_set (m : Memory) (k j : Nat) (v : Byte) :
    (m.set k v).get j = if j = k then v else m.get j := by
  unfold Memory.set
  split
  · rename_i h
    rw [Memory.get_erase, h]
  · exact Memory.get_insert m k j v

@[simp] theorem Memory.get_set_same (m : Memory) (k : Nat) (v : Byte) : (m.set k v).get k = v := by
  simp [Memory.get_set]

theorem Memory.get_set_other (m : Memory) (k j : Nat) (v : Byte) (h : j ≠ k) : (m.set k v).get j = m.get j := by
  simp [Memory.get_set, h]

theorem Memory.risesAbove_le (m : Memory) (l l' : Nat) (h : l' ≤ l) (hm : m.risesAbove l = true) :
    m.risesAbove l' = true := by
  cases m with
  | nil => rfl
  | cons c m =>
    simp only [Memory.risesAbove, Bool.and_eq_true, decide_eq_true_eq] at hm ⊢
    exact ⟨by omega, hm.2⟩

theorem Memory.risesAbove_erase (m : Memory) (k l : Nat) (hm : m.risesAbove l = true) :
    (m.erase k).risesAbove l = true := by
  induction m generalizing l with
  | nil => rfl
  | cons c m ih =>
    obtain ⟨i, b⟩ := c
    simp only [Memory.risesAbove, Bool.and_eq_true, decide_eq_true_eq] at hm
    simp only [Memory.erase]
    split
    · exact Memory.risesAbove_le _ (i + 1) l (by omega) (ih _ hm.2)
    · simp only [Memory.risesAbove, Bool.and_eq_true, decide_eq_true_eq]
      exact ⟨hm.1, ih _ hm.2⟩

theorem Memory.risesAbove_insert (m : Memory) (k l : Nat) (v : Byte) (hl : l ≤ k) (hm : m.risesAbove l = true) :
    (m.insert k v).risesAbove l = true := by
  induction m generalizing l with
  | nil => simp [Memory.insert, Memory.risesAbove, hl]
  | cons c m ih =>
    obtain ⟨i, b⟩ := c
    simp only [Memory.risesAbove, Bool.and_eq_true, decide_eq_true_eq] at hm
    simp only [Memory.insert]
    split
    · simp only [Memory.risesAbove, Bool.and_eq_true, decide_eq_true_eq]
      exact ⟨hm.1, ih _ (by omega) hm.2⟩
    · split
      · rename_i h
        subst h
        simp [Memory.risesAbove, hm]
      · simp only [Memory.risesAbove, Bool.and_eq_true, decide_eq_true_eq]
        exact ⟨hl, by omega, hm.2⟩

theorem Memory.all_erase (m : Memory) (k : Nat) (q : Host.Cell → Bool) (hm : m.all q = true) :
    (m.erase k).all q = true := by
  induction m with
  | nil => rfl
  | cons c m ih =>
    obtain ⟨i, b⟩ := c
    simp only [List.all_cons, Bool.and_eq_true] at hm
    simp only [Memory.erase]
    split
    · exact ih hm.2
    · simp only [List.all_cons, Bool.and_eq_true]
      exact ⟨hm.1, ih hm.2⟩

theorem Memory.all_insert (m : Memory) (k : Nat) (v : Byte) (q : Host.Cell → Bool) (hk : q (k, v) = true)
    (hm : m.all q = true) : (m.insert k v).all q = true := by
  induction m with
  | nil => simp [Memory.insert, hk]
  | cons c m ih =>
    obtain ⟨i, b⟩ := c
    simp only [List.all_cons, Bool.and_eq_true] at hm
    simp only [Memory.insert]
    split
    · simp only [List.all_cons, Bool.and_eq_true]
      exact ⟨hm.1, ih hm.2⟩
    · split
      · simp [hk, hm.2]
      · simp [hk, hm.1, hm.2]

/-- A write inside the store keeps the canonical form. -/
theorem Memory.wf_set (m : Memory) (size k : Nat) (v : Byte) (hk : k < size) (hm : m.wf size = true) :
    (m.set k v).wf size = true := by
  simp only [Memory.wf, Bool.and_eq_true] at hm ⊢
  unfold Memory.set
  split
  · exact ⟨Memory.risesAbove_erase m k 0 hm.1, Memory.all_erase m k _ hm.2⟩
  · rename_i h
    exact ⟨Memory.risesAbove_insert m k 0 v (Nat.zero_le k) hm.1, Memory.all_insert m k v _ (by simp [hk, h]) hm.2⟩

/-- A blank store is canonical. -/
theorem Memory.wf_nil (size : Nat) : Memory.wf [] size = true := rfl

/-- A loader's copy is canonical (R312). -/
theorem Memory.wf_ofBytes (bs : List Byte) : (Memory.ofBytes 0 bs).wf bs.length = true := by
  have key : ∀ (bs : List Byte) (k size : Nat), k + bs.length ≤ size →
      (Memory.ofBytes k bs).risesAbove k = true ∧
        (Memory.ofBytes k bs).all (fun c => c.1 < size && c.2 != Config.blankByte) = true := by
    intro bs
    induction bs with
    | nil => intro k size _; exact ⟨rfl, rfl⟩
    | cons b bs ih =>
      intro k size h
      simp only [List.length_cons] at h
      obtain ⟨h1, h2⟩ := ih (k + 1) size (by omega)
      simp only [Memory.ofBytes]
      split
      · exact ⟨Memory.risesAbove_le _ (k + 1) k (by omega) h1, h2⟩
      · rename_i hb
        simp only [Memory.risesAbove, List.all_cons, Bool.and_eq_true, decide_eq_true_eq]
        exact ⟨⟨le_refl k, h1⟩, ⟨by omega, by simpa using hb⟩, h2⟩
  simp only [Memory.wf, Bool.and_eq_true]
  exact key bs 0 bs.length (by omega)

/-- Below every listed index a store reads as blank. -/
theorem Memory.get_below (m : Memory) (l k : Nat) (h : m.risesAbove l = true) (hk : k < l) :
    m.get k = Config.blankByte := by
  induction m generalizing l with
  | nil => rfl
  | cons c m ih =>
    obtain ⟨j, b⟩ := c
    simp only [Memory.risesAbove, Bool.and_eq_true, decide_eq_true_eq] at h
    rw [Memory.get, if_neg (by omega)]
    exact ih (j + 1) h.2 (by omega)

theorem Memory.risesAbove_ofBytes (bs : List Byte) (k : Nat) : (Memory.ofBytes k bs).risesAbove k = true := by
  induction bs generalizing k with
  | nil => rfl
  | cons b bs ih =>
    rw [Memory.ofBytes]
    split
    · exact Memory.risesAbove_le _ (k + 1) k (by omega) (ih _)
    · simp [Memory.risesAbove, ih]

/-- R312: a store filled from bytes holds them. -/
theorem Memory.get_ofBytes (bs : List Byte) (k j : Nat) : (Memory.ofBytes k bs).get (k + j) = bs.getD j 0 := by
  induction bs generalizing k j with
  | nil => rfl
  | cons b bs ih =>
    have hs : ∀ j, (Memory.ofBytes (k + 1) bs).get (k + (j + 1)) = bs.getD j 0 := fun j => by
      rw [← ih (k + 1) j]
      congr 1
      omega
    rw [Memory.ofBytes]
    cases j with
    | zero =>
      split
      · rename_i hb
        rw [Memory.get_below _ _ _ (Memory.risesAbove_ofBytes _ _) (by omega)]
        simp [hb]
      · simp [Memory.get]
    | succ j =>
      split
      · simpa using hs j
      · rw [Memory.get, if_neg (by omega)]
        simpa using hs j

end Sys2Proof.Machine
end

