-- ==== Sys2Proof/Laws/Bus.lean ====
section
/-! SUPPORT. The laws of the Bus: what a read and a write can do, and read after write over storage cells. -/

namespace Sys2Proof.Machine

/-- Translation depends on the slot table and on HIGH_BANK alone (R37). -/
theorem translate_congr (s t : State) (hs : t.slots = s.slots)
    (hb : t.bankHi = .mirrored ↔ s.bankHi = .mirrored) (a : Word) : t.translate a = s.translate a := by
  have hc : bankedCell t.bankHi a = bankedCell s.bankHi a := by
    unfold bankedCell
    cases ht : t.bankHi <;> cases hs' : s.bankHi <;> simp_all
  simp only [State.translate, State.deviceAt, hs, hc]

/-- What a stored byte depends on. -/
theorem stored_congr (s t : State) (hs : t.slots = s.slots) (hf : t.flat = s.flat) (hr : t.ram = s.ram)
    (hl : t.bankLo = s.bankLo) (hh : t.bankHi = s.bankHi) (hp : t.ppu.reg = s.ppu.reg) (a : Word) :
    t.stored a = s.stored a := by
  have ht := translate_congr s t hs (by rw [hh]) a
  simp only [State.stored, ht]
  cases s.translate a with
  | none => rfl
  | some c => cases c <;> simp [State.readCell, hf, hr, hl, hh, hp]

/-- An independent high bank's cells are reached only when there is one (R305). -/
theorem translate_bankHi (s : State) (a : Word) (k : Nat) (h : s.translate a = some (.bankHi k)) :
    s.bankHi ≠ .mirrored := by
  intro hm
  simp only [State.translate] at h
  cases hd : s.deviceAt a with
  | none => simp [hd] at h
  | some d =>
    cases d with
    | flat => simp [hd] at h
    | ppu => simp [hd] at h
    | banked =>
      simp only [hd, bankedCell, hm, Option.some.injEq] at h
      split at h
      · cases h
      · split at h <;> cases h

/-! ### A read changes nothing but the count of draws (R73) -/

/-- R73: what a Bus read can do to the state. -/
theorem afterRead_eq (s : State) (a : Word) : ∃ n, s.afterRead a = { s with draws := n } := by
  unfold State.afterRead
  split
  · exact ⟨_, rfl⟩
  · exact ⟨s.draws, rfl⟩

theorem stored_afterRead (s : State) (a b : Word) : (s.afterRead a).stored b = s.stored b := by
  obtain ⟨n, h⟩ := afterRead_eq s a
  rw [h]
  rfl

theorem translate_afterRead (s : State) (a b : Word) : (s.afterRead a).translate b = s.translate b := by
  obtain ⟨n, h⟩ := afterRead_eq s a
  rw [h]
  rfl

/-- A read outside the PPU window returns the stored byte (R64). -/
theorem peek_eq_stored (s : State) (a : Word) (h : ∀ i, s.translate a ≠ some (.reg i)) : s.peek a = s.stored a := by
  unfold State.peek
  split
  · rename_i i hi
    exact absurd hi (h i)
  · rfl

/-- A read in the PPU window returns a free byte (R332). -/
theorem peek_reg (s : State) (a : Word) (i : BitVec 3) (h : s.translate a = some (.reg i)) :
    s.peek a = s.ppu.readRegister i s.draws := by
  simp [State.peek, h]

/-- R73: two reads in a row change nothing but the count of draws. -/
theorem readPair_state (l h : Word) (s : State) : ∃ n, (readPair l h s).2 = { s with draws := n } := by
  obtain ⟨n, hn⟩ := afterRead_eq s l
  obtain ⟨m, hm⟩ := afterRead_eq (s.afterRead l) h
  refine ⟨m, ?_⟩
  simp only [readPair, busRead]
  rw [hm, hn]

/-! ### A write changes one cell (R65) -/

/-- R65: what a Bus write can do to the state: it changes one byte of one store, or nothing in an empty slot. -/
theorem busWrite_cases (a : Word) (v : Byte) (s : State) :
    busWrite a v s = s ∨
    (∃ k, busWrite a v s = { s with flat := s.flat.set k v }) ∨
    (∃ k, busWrite a v s = { s with ram := s.ram.set k v }) ∨
    (∃ k, busWrite a v s = { s with bankLo := s.bankLo.set k v }) ∨
    (∃ m k, s.bankHi = .own m ∧ busWrite a v s = { s with bankHi := .own (m.set k v) }) ∨
    (∃ i : BitVec 3, busWrite a v s = { s with ppu := { s.ppu with reg := s.ppu.reg.set i.toNat v i.isLt } }) := by
  unfold busWrite
  cases s.translate a with
  | none => exact .inl rfl
  | some c =>
    cases c with
    | flat k => exact .inr (.inl ⟨k, rfl⟩)
    | ram k => exact .inr (.inr (.inl ⟨k, rfl⟩))
    | bankLo k => exact .inr (.inr (.inr (.inl ⟨k, rfl⟩)))
    | bankHi k =>
      cases h : s.bankHi with
      | mirrored => exact .inr (.inr (.inr (.inl ⟨k, by simp [State.writeCell, h]⟩)))
      | own m => exact .inr (.inr (.inr (.inr (.inl ⟨m, k, rfl, by simp [State.writeCell, h]⟩))))
    | reg i => exact .inr (.inr (.inr (.inr (.inr ⟨i, rfl⟩))))

@[simp] theorem busWrite_a (a : Word) (v : Byte) (s : State) : (busWrite a v s).a = s.a := by
  rcases busWrite_cases a v s with h | ⟨k, h⟩ | ⟨k, h⟩ | ⟨k, h⟩ | ⟨m, k, hm, h⟩ | ⟨i, h⟩ <;> rw [h]

@[simp] theorem busWrite_x (a : Word) (v : Byte) (s : State) : (busWrite a v s).x = s.x := by
  rcases busWrite_cases a v s with h | ⟨k, h⟩ | ⟨k, h⟩ | ⟨k, h⟩ | ⟨m, k, hm, h⟩ | ⟨i, h⟩ <;> rw [h]

@[simp] theorem busWrite_y (a : Word) (v : Byte) (s : State) : (busWrite a v s).y = s.y := by
  rcases busWrite_cases a v s with h | ⟨k, h⟩ | ⟨k, h⟩ | ⟨k, h⟩ | ⟨m, k, hm, h⟩ | ⟨i, h⟩ <;> rw [h]

@[simp] theorem busWrite_sp (a : Word) (v : Byte) (s : State) : (busWrite a v s).sp = s.sp := by
  rcases busWrite_cases a v s with h | ⟨k, h⟩ | ⟨k, h⟩ | ⟨k, h⟩ | ⟨m, k, hm, h⟩ | ⟨i, h⟩ <;> rw [h]

@[simp] theorem busWrite_p (a : Word) (v : Byte) (s : State) : (busWrite a v s).p = s.p := by
  rcases busWrite_cases a v s with h | ⟨k, h⟩ | ⟨k, h⟩ | ⟨k, h⟩ | ⟨m, k, hm, h⟩ | ⟨i, h⟩ <;> rw [h]

@[simp] theorem busWrite_pc (a : Word) (v : Byte) (s : State) : (busWrite a v s).pc = s.pc := by
  rcases busWrite_cases a v s with h | ⟨k, h⟩ | ⟨k, h⟩ | ⟨k, h⟩ | ⟨m, k, hm, h⟩ | ⟨i, h⟩ <;> rw [h]

@[simp] theorem busWrite_cyclesLeft (a : Word) (v : Byte) (s : State) : (busWrite a v s).cyclesLeft = s.cyclesLeft := by
  rcases busWrite_cases a v s with h | ⟨k, h⟩ | ⟨k, h⟩ | ⟨k, h⟩ | ⟨m, k, hm, h⟩ | ⟨i, h⟩ <;> rw [h]

@[simp] theorem busWrite_nmiPending (a : Word) (v : Byte) (s : State) : (busWrite a v s).nmiPending = s.nmiPending := by
  rcases busWrite_cases a v s with h | ⟨k, h⟩ | ⟨k, h⟩ | ⟨k, h⟩ | ⟨m, k, hm, h⟩ | ⟨i, h⟩ <;> rw [h]

@[simp] theorem busWrite_irqPending (a : Word) (v : Byte) (s : State) : (busWrite a v s).irqPending = s.irqPending := by
  rcases busWrite_cases a v s with h | ⟨k, h⟩ | ⟨k, h⟩ | ⟨k, h⟩ | ⟨m, k, hm, h⟩ | ⟨i, h⟩ <;> rw [h]

@[simp] theorem busWrite_slots (a : Word) (v : Byte) (s : State) : (busWrite a v s).slots = s.slots := by
  rcases busWrite_cases a v s with h | ⟨k, h⟩ | ⟨k, h⟩ | ⟨k, h⟩ | ⟨m, k, hm, h⟩ | ⟨i, h⟩ <;> rw [h]

@[simp] theorem busWrite_frameDone (a : Word) (v : Byte) (s : State) : (busWrite a v s).frameDone = s.frameDone := by
  rcases busWrite_cases a v s with h | ⟨k, h⟩ | ⟨k, h⟩ | ⟨k, h⟩ | ⟨m, k, hm, h⟩ | ⟨i, h⟩ <;> rw [h]

@[simp] theorem busWrite_draws (a : Word) (v : Byte) (s : State) : (busWrite a v s).draws = s.draws := by
  rcases busWrite_cases a v s with h | ⟨k, h⟩ | ⟨k, h⟩ | ⟨k, h⟩ | ⟨m, k, hm, h⟩ | ⟨i, h⟩ <;> rw [h]

@[simp] theorem busWrite_launch (a : Word) (v : Byte) (s : State) : (busWrite a v s).launch = s.launch := by
  rcases busWrite_cases a v s with h | ⟨k, h⟩ | ⟨k, h⟩ | ⟨k, h⟩ | ⟨m, k, hm, h⟩ | ⟨i, h⟩ <;> rw [h]

@[simp] theorem afterRead_a (s : State) (a : Word) : (s.afterRead a).a = s.a := by
  obtain ⟨n, h⟩ := afterRead_eq s a
  rw [h]

@[simp] theorem afterRead_x (s : State) (a : Word) : (s.afterRead a).x = s.x := by
  obtain ⟨n, h⟩ := afterRead_eq s a
  rw [h]

@[simp] theorem afterRead_y (s : State) (a : Word) : (s.afterRead a).y = s.y := by
  obtain ⟨n, h⟩ := afterRead_eq s a
  rw [h]

@[simp] theorem afterRead_sp (s : State) (a : Word) : (s.afterRead a).sp = s.sp := by
  obtain ⟨n, h⟩ := afterRead_eq s a
  rw [h]

@[simp] theorem afterRead_p (s : State) (a : Word) : (s.afterRead a).p = s.p := by
  obtain ⟨n, h⟩ := afterRead_eq s a
  rw [h]

@[simp] theorem afterRead_pc (s : State) (a : Word) : (s.afterRead a).pc = s.pc := by
  obtain ⟨n, h⟩ := afterRead_eq s a
  rw [h]

@[simp] theorem afterRead_cyclesLeft (s : State) (a : Word) : (s.afterRead a).cyclesLeft = s.cyclesLeft := by
  obtain ⟨n, h⟩ := afterRead_eq s a
  rw [h]

@[simp] theorem afterRead_nmiPending (s : State) (a : Word) : (s.afterRead a).nmiPending = s.nmiPending := by
  obtain ⟨n, h⟩ := afterRead_eq s a
  rw [h]

@[simp] theorem afterRead_irqPending (s : State) (a : Word) : (s.afterRead a).irqPending = s.irqPending := by
  obtain ⟨n, h⟩ := afterRead_eq s a
  rw [h]

@[simp] theorem afterRead_slots (s : State) (a : Word) : (s.afterRead a).slots = s.slots := by
  obtain ⟨n, h⟩ := afterRead_eq s a
  rw [h]

@[simp] theorem afterRead_flat (s : State) (a : Word) : (s.afterRead a).flat = s.flat := by
  obtain ⟨n, h⟩ := afterRead_eq s a
  rw [h]

@[simp] theorem afterRead_ram (s : State) (a : Word) : (s.afterRead a).ram = s.ram := by
  obtain ⟨n, h⟩ := afterRead_eq s a
  rw [h]

@[simp] theorem afterRead_bankLo (s : State) (a : Word) : (s.afterRead a).bankLo = s.bankLo := by
  obtain ⟨n, h⟩ := afterRead_eq s a
  rw [h]

@[simp] theorem afterRead_bankHi (s : State) (a : Word) : (s.afterRead a).bankHi = s.bankHi := by
  obtain ⟨n, h⟩ := afterRead_eq s a
  rw [h]

@[simp] theorem afterRead_ppu (s : State) (a : Word) : (s.afterRead a).ppu = s.ppu := by
  obtain ⟨n, h⟩ := afterRead_eq s a
  rw [h]

@[simp] theorem afterRead_frameDone (s : State) (a : Word) : (s.afterRead a).frameDone = s.frameDone := by
  obtain ⟨n, h⟩ := afterRead_eq s a
  rw [h]

@[simp] theorem afterRead_launch (s : State) (a : Word) : (s.afterRead a).launch = s.launch := by
  obtain ⟨n, h⟩ := afterRead_eq s a
  rw [h]

theorem busWrite_bankHi (a : Word) (v : Byte) (s : State) :
    (busWrite a v s).bankHi = .mirrored ↔ s.bankHi = .mirrored := by
  rcases busWrite_cases a v s with h | ⟨k, h⟩ | ⟨k, h⟩ | ⟨k, h⟩ | ⟨m, k, hm, h⟩ | ⟨i, h⟩ <;> simp [*]

theorem busWrite_video (a : Word) (v : Byte) (s : State) : KeepsVideo s (busWrite a v s) := by
  unfold KeepsVideo
  rcases busWrite_cases a v s with h | ⟨k, h⟩ | ⟨k, h⟩ | ⟨k, h⟩ | ⟨m, k, hm, h⟩ | ⟨i, h⟩ <;> simp [h]

@[simp] theorem translate_busWrite (a b : Word) (v : Byte) (s : State) :
    (busWrite a v s).translate b = s.translate b :=
  translate_congr s _ (busWrite_slots a v s) (busWrite_bankHi a v s) b

/-- R38: reading a PPU register after writing one. -/
theorem registers_get_set (r : Vector Byte 8) (i j : BitVec 3) (v : Byte) :
    (r.set i.toNat v i.isLt).get j.toFin = if j = i then v else r.get j.toFin := by
  show (r.set i.toNat v i.isLt)[j.toNat]'j.isLt = _
  rw [Vector.getElem_set]
  by_cases h : j = i
  · simp [h]
  · have hne : i.toNat ≠ j.toNat := fun he => h (BitVec.eq_of_toNat_eq he.symm)
    simp only [hne, h, if_false]
    rfl

/-- Reading a cell after writing a cell. The hypotheses hold of every cell an address translates to
(`translate_bankHi`). -/
theorem readCell_writeCell (s : State) (v : Byte) (c d : Cell) (hc : ∀ k, c = .bankHi k → s.bankHi ≠ .mirrored)
    (hd : ∀ k, d = .bankHi k → s.bankHi ≠ .mirrored) :
    (s.writeCell v c).readCell d = if d = c then v else s.readCell d := by
  cases hb : s.bankHi with
  | mirrored =>
    cases c <;> cases d <;> simp_all [State.writeCell, State.readCell, Memory.get_set, registers_get_set]
  | own m =>
    cases c <;> cases d <;> simp_all [State.writeCell, State.readCell, Memory.get_set, registers_get_set]

/-- R64, R65, R77 (1): the byte an address holds after a Bus write. -/
theorem stored_busWrite (ea a : Word) (v : Byte) (s : State) :
    (s.sameCell a ea → (busWrite ea v s).stored a = v) ∧
    (¬ s.sameCell a ea → (busWrite ea v s).stored a = s.stored a) := by
  have ht := translate_busWrite ea a v s
  cases he : s.translate ea with
  | none =>
    have hw : busWrite ea v s = s := by simp [busWrite, he]
    exact ⟨fun h => absurd he h.2, fun _ => by rw [hw]⟩
  | some c =>
    have hw : busWrite ea v s = s.writeCell v c := by simp [busWrite, he]
    have hc : ∀ k, c = .bankHi k → s.bankHi ≠ .mirrored :=
      fun k hk => translate_bankHi s ea k (by rw [he, hk])
    constructor
    · intro h
      have ha : s.translate a = some c := by rw [h.1, he]
      simp only [State.stored, ht, ha]
      rw [hw, readCell_writeCell s v c c hc hc, if_pos rfl]
    · intro h
      simp only [State.stored, ht]
      cases ha : s.translate a with
      | none => rfl
      | some d =>
        have hd : ∀ k, d = .bankHi k → s.bankHi ≠ .mirrored :=
          fun k hk => translate_bankHi s a k (by rw [ha, hk])
        have hne : d ≠ c := by
          intro hdc
          exact h ⟨by rw [ha, he, hdc], by simp [he]⟩
        show (busWrite ea v s).readCell d = s.readCell d
        rw [hw, readCell_writeCell s v c d hc hd, if_neg hne]

/-- R65: a Bus write stores exactly one byte. -/
theorem busWrite_storesByte (ea : Word) (v : Byte) (s : State) : StoresByte ea v s (busWrite ea v s) := by
  refine ⟨?_, ?_, ?_⟩
  · simp only [List.mem_singleton, forall_eq]
    exact fun a h => (stored_busWrite ea a v s).1 h
  · simp only [List.mem_singleton, forall_eq]
    exact fun a h => (stored_busWrite ea a v s).2 h
  · simp only [List.mem_singleton, forall_eq]
    intro d hd hne
    unfold busWrite
    cases he : s.translate ea with
    | none => rfl
    | some c =>
      have hc : ∀ k, c = .bankHi k → s.bankHi ≠ .mirrored := fun k hk => translate_bankHi s ea k (by rw [he, hk])
      have hdc : d ≠ c := fun h => hne (by rw [he, h])
      show (s.writeCell v c).readCell d = s.readCell d
      rw [readCell_writeCell s v c d hc hd, if_neg hdc]

end Sys2Proof.Machine
end

