-- ==== Sys2Proof/Laws/Bytes.lean ====
section
/-! SUPPORT. The laws of the byte-order helpers and of the stack's addresses, in numbers. -/

namespace Sys2Proof

theorem toNat_joinBytes (h l : Byte) : (joinBytes h l).toNat = 256 * h.toNat + l.toNat := by
  have := Nat.two_pow_add_eq_or_of_lt (i := 8) l.isLt h.toNat
  rw [joinBytes, BitVec.toNat_append, Nat.shiftLeft_eq, Nat.mul_comm, ← this]

theorem toNat_loByte (w : Word) : (loByte w).toNat = w.toNat % 256 := by
  simp [loByte, BitVec.extractLsb'_toNat]

theorem toNat_hiByte (w : Word) : (hiByte w).toNat = w.toNat / 256 := by
  have := w.isLt
  simp [hiByte, BitVec.extractLsb'_toNat, Nat.shiftRight_eq_div_pow]
  omega

theorem toNat_zeroExtend (b : Byte) : (zeroExtend b).toNat = b.toNat := by
  have := b.isLt
  simp [zeroExtend]
  omega

/-- R67: the two bytes of a word give it back. -/
@[simp] theorem joinBytes_bytes (w : Word) : joinBytes (hiByte w) (loByte w) = w := by
  apply BitVec.eq_of_toNat_eq
  rw [toNat_joinBytes, toNat_loByte, toNat_hiByte]
  omega

@[simp] theorem loByte_joinBytes (h l : Byte) : loByte (joinBytes h l) = l := by
  have := l.isLt
  apply BitVec.eq_of_toNat_eq
  rw [toNat_loByte, toNat_joinBytes]
  omega

@[simp] theorem hiByte_joinBytes (h l : Byte) : hiByte (joinBytes h l) = h := by
  have := l.isLt
  apply BitVec.eq_of_toNat_eq
  rw [toNat_hiByte, toNat_joinBytes]
  omega

end Sys2Proof

namespace Sys2Proof.Machine

/-- R25: one address further on, in numbers. -/
theorem address_succ (a : Word) (k : Nat) : a + 1 + BitVec.ofNat 16 k = a + BitVec.ofNat 16 (k + 1) := by
  rw [BitVec.add_assoc, Nat.add_comm k 1, BitVec.ofNat_add]
  rfl

@[simp] theorem address_zero (a : Word) : a + BitVec.ofNat 16 0 = a := BitVec.add_zero a

theorem address_add (a : Word) (j k : Nat) :
    a + BitVec.ofNat 16 j + BitVec.ofNat 16 k = a + BitVec.ofNat 16 (j + k) := by
  rw [BitVec.add_assoc, BitVec.ofNat_add]

/-- R62: the slot of an address is its quotient by 4096. -/
theorem toNat_slotOf (a : Word) : (slotOf a).toNat = a.toNat / 4096 := by
  have := a.isLt
  simp [slotOf, BitVec.extractLsb'_toNat, Nat.shiftRight_eq_div_pow]
  omega

/-- R330: the register index of an address is its remainder by 8. -/
theorem toNat_registerIndex (a : Word) : (a.extractLsb' 0 3).toNat = a.toNat % 8 := by
  simp [BitVec.extractLsb'_toNat]

/-- R304: the RAM index of an address is its remainder by 2048. -/
theorem toNat_ramIndex (a : Word) : (a &&& 0x07FF).toNat = a.toNat % 2048 := by
  rw [BitVec.toNat_and]
  exact Nat.and_two_pow_sub_one_eq_mod a.toNat 11

/-- R305: the bank index of an address is its remainder by 16384. -/
theorem toNat_bankIndex (a : Word) : (a &&& 0x3FFF).toNat = a.toNat % 16384 := by
  rw [BitVec.toNat_and]
  exact Nat.and_two_pow_sub_one_eq_mod a.toNat 14

/-- R304: the top three bits are clear exactly below 0x2000. -/
theorem top_clear_iff (a : Word) : a &&& 0xE000 = 0 ↔ a.toNat < 0x2000 := by
  have h : a &&& (0xE000 : Word) = (a >>> 13) <<< 13 := by
    apply BitVec.eq_of_getLsbD_eq
    intro i hi
    interval_cases i <;> simp
  rw [h, ← BitVec.toNat_inj, BitVec.toNat_shiftLeft, BitVec.toNat_ushiftRight, Nat.shiftLeft_eq,
    Nat.shiftRight_eq_div_pow]
  have := a.isLt
  simp
  omega

/-- R305: bit 14 in numbers. -/
theorem bit14_clear_iff (a : Word) : a &&& 0x4000 = 0 ↔ a.getLsbD 14 = false := by
  constructor
  · intro h
    have := congrArg (fun w : Word => w.getLsbD 14) h
    simpa using this
  · intro h
    apply BitVec.eq_of_getLsbD_eq
    intro i hi
    rw [BitVec.getLsbD_and]
    by_cases h14 : i = 14
    · rw [h14, h]
      rfl
    · have : (0x4000 : Word).getLsbD i = false := by interval_cases i <;> first | rfl | exact absurd rfl h14
      rw [this, Bool.and_false]
      exact BitVec.getLsbD_zero.symm

/-- R24: a stack address is 256 plus the stack pointer. -/
theorem toNat_stackAddress (sp : Byte) : (stackAddress sp).toNat = 256 + sp.toNat := by
  rw [stackAddress, toNat_joinBytes]
  rfl

/-- R24, R62: the stack page is in slot 0. -/
@[simp] theorem slotOf_stackAddress (sp : Byte) : slotOf (stackAddress sp) = 0 := by
  have := sp.isLt
  apply BitVec.eq_of_toNat_eq
  rw [toNat_slotOf, toNat_stackAddress]
  simp
  omega

end Sys2Proof.Machine
end

