-- ==== Sys2Proof/Laws/Operands.lean ====
section
/-! SUPPORT. The laws of the addressing modes and of the stack: what each can do to the state. -/

namespace Sys2Proof.Machine

/-- R130, R73: an addressing mode changes nothing but the count of draws (of pointer reads in the PPU window). -/
theorem resolve_state (o : Operand) (s : State) : ∃ n, (resolve o s).state = { s with draws := n } := by
  cases o with
  | ind w => exact readPair_state _ _ s
  | izx z => exact readPair_state _ _ s
  | izy z => exact readPair_state _ _ s
  | _ => exact ⟨s.draws, rfl⟩

/-- R143: loading an operand changes nothing but the count of draws. -/
theorem load_state (o : Operand) (s : State) : ∃ n, (load o s).state = { s with draws := n } := by
  obtain ⟨n, hn⟩ := resolve_state o s
  obtain ⟨m, hm⟩ := afterRead_eq (resolve o s).state (resolve o s).ea
  exact ⟨m, by rw [load, hm, hn]⟩

/-- R132, R143: loading an Immediate operand answers the byte the instruction carries and makes the read at ea. -/
theorem load_imm (b : Byte) (s : State) : load (.imm b) s = ⟨b, false, s.afterRead (s.pc - 1)⟩ := rfl

/-- R143: loading any other operand is the Bus read at ea. -/
theorem load_memory (o : Operand) (s : State) (h : ∀ b, o ≠ .imm b) :
    load o s = ⟨(busRead (resolve o s).ea (resolve o s).state).1, (resolve o s).xm,
      (busRead (resolve o s).ea (resolve o s).state).2⟩ := by
  cases o <;> first | rfl | exact absurd rfl (h _)

@[simp] theorem resolve_state_a (o : Operand) (s : State) : (resolve o s).state.a = s.a := by
  obtain ⟨n, h⟩ := resolve_state o s
  rw [h]

@[simp] theorem resolve_state_x (o : Operand) (s : State) : (resolve o s).state.x = s.x := by
  obtain ⟨n, h⟩ := resolve_state o s
  rw [h]

@[simp] theorem resolve_state_y (o : Operand) (s : State) : (resolve o s).state.y = s.y := by
  obtain ⟨n, h⟩ := resolve_state o s
  rw [h]

@[simp] theorem resolve_state_sp (o : Operand) (s : State) : (resolve o s).state.sp = s.sp := by
  obtain ⟨n, h⟩ := resolve_state o s
  rw [h]

@[simp] theorem resolve_state_p (o : Operand) (s : State) : (resolve o s).state.p = s.p := by
  obtain ⟨n, h⟩ := resolve_state o s
  rw [h]

@[simp] theorem resolve_state_pc (o : Operand) (s : State) : (resolve o s).state.pc = s.pc := by
  obtain ⟨n, h⟩ := resolve_state o s
  rw [h]

@[simp] theorem resolve_state_cyclesLeft (o : Operand) (s : State) : (resolve o s).state.cyclesLeft = s.cyclesLeft := by
  obtain ⟨n, h⟩ := resolve_state o s
  rw [h]

@[simp] theorem resolve_state_nmiPending (o : Operand) (s : State) : (resolve o s).state.nmiPending = s.nmiPending := by
  obtain ⟨n, h⟩ := resolve_state o s
  rw [h]

@[simp] theorem resolve_state_irqPending (o : Operand) (s : State) : (resolve o s).state.irqPending = s.irqPending := by
  obtain ⟨n, h⟩ := resolve_state o s
  rw [h]

@[simp] theorem resolve_state_slots (o : Operand) (s : State) : (resolve o s).state.slots = s.slots := by
  obtain ⟨n, h⟩ := resolve_state o s
  rw [h]

@[simp] theorem resolve_state_flat (o : Operand) (s : State) : (resolve o s).state.flat = s.flat := by
  obtain ⟨n, h⟩ := resolve_state o s
  rw [h]

@[simp] theorem resolve_state_ram (o : Operand) (s : State) : (resolve o s).state.ram = s.ram := by
  obtain ⟨n, h⟩ := resolve_state o s
  rw [h]

@[simp] theorem resolve_state_bankLo (o : Operand) (s : State) : (resolve o s).state.bankLo = s.bankLo := by
  obtain ⟨n, h⟩ := resolve_state o s
  rw [h]

@[simp] theorem resolve_state_bankHi (o : Operand) (s : State) : (resolve o s).state.bankHi = s.bankHi := by
  obtain ⟨n, h⟩ := resolve_state o s
  rw [h]

@[simp] theorem resolve_state_ppu (o : Operand) (s : State) : (resolve o s).state.ppu = s.ppu := by
  obtain ⟨n, h⟩ := resolve_state o s
  rw [h]

@[simp] theorem resolve_state_frameDone (o : Operand) (s : State) : (resolve o s).state.frameDone = s.frameDone := by
  obtain ⟨n, h⟩ := resolve_state o s
  rw [h]

@[simp] theorem resolve_state_launch (o : Operand) (s : State) : (resolve o s).state.launch = s.launch := by
  obtain ⟨n, h⟩ := resolve_state o s
  rw [h]

@[simp] theorem load_state_a (o : Operand) (s : State) : (load o s).state.a = s.a := by
  obtain ⟨n, h⟩ := load_state o s
  rw [h]

@[simp] theorem load_state_x (o : Operand) (s : State) : (load o s).state.x = s.x := by
  obtain ⟨n, h⟩ := load_state o s
  rw [h]

@[simp] theorem load_state_y (o : Operand) (s : State) : (load o s).state.y = s.y := by
  obtain ⟨n, h⟩ := load_state o s
  rw [h]

@[simp] theorem load_state_sp (o : Operand) (s : State) : (load o s).state.sp = s.sp := by
  obtain ⟨n, h⟩ := load_state o s
  rw [h]

@[simp] theorem load_state_p (o : Operand) (s : State) : (load o s).state.p = s.p := by
  obtain ⟨n, h⟩ := load_state o s
  rw [h]

@[simp] theorem load_state_pc (o : Operand) (s : State) : (load o s).state.pc = s.pc := by
  obtain ⟨n, h⟩ := load_state o s
  rw [h]

@[simp] theorem load_state_cyclesLeft (o : Operand) (s : State) : (load o s).state.cyclesLeft = s.cyclesLeft := by
  obtain ⟨n, h⟩ := load_state o s
  rw [h]

@[simp] theorem load_state_nmiPending (o : Operand) (s : State) : (load o s).state.nmiPending = s.nmiPending := by
  obtain ⟨n, h⟩ := load_state o s
  rw [h]

@[simp] theorem load_state_irqPending (o : Operand) (s : State) : (load o s).state.irqPending = s.irqPending := by
  obtain ⟨n, h⟩ := load_state o s
  rw [h]

@[simp] theorem load_state_slots (o : Operand) (s : State) : (load o s).state.slots = s.slots := by
  obtain ⟨n, h⟩ := load_state o s
  rw [h]

@[simp] theorem load_state_flat (o : Operand) (s : State) : (load o s).state.flat = s.flat := by
  obtain ⟨n, h⟩ := load_state o s
  rw [h]

@[simp] theorem load_state_ram (o : Operand) (s : State) : (load o s).state.ram = s.ram := by
  obtain ⟨n, h⟩ := load_state o s
  rw [h]

@[simp] theorem load_state_bankLo (o : Operand) (s : State) : (load o s).state.bankLo = s.bankLo := by
  obtain ⟨n, h⟩ := load_state o s
  rw [h]

@[simp] theorem load_state_bankHi (o : Operand) (s : State) : (load o s).state.bankHi = s.bankHi := by
  obtain ⟨n, h⟩ := load_state o s
  rw [h]

@[simp] theorem load_state_ppu (o : Operand) (s : State) : (load o s).state.ppu = s.ppu := by
  obtain ⟨n, h⟩ := load_state o s
  rw [h]

@[simp] theorem load_state_frameDone (o : Operand) (s : State) : (load o s).state.frameDone = s.frameDone := by
  obtain ⟨n, h⟩ := load_state o s
  rw [h]

@[simp] theorem load_state_launch (o : Operand) (s : State) : (load o s).state.launch = s.launch := by
  obtain ⟨n, h⟩ := load_state o s
  rw [h]

/-! ### The stack -/

@[simp] theorem push_a (v : Byte) (s : State) : (push v s).a = s.a := by
  simp [push]

@[simp] theorem push_x (v : Byte) (s : State) : (push v s).x = s.x := by
  simp [push]

@[simp] theorem push_y (v : Byte) (s : State) : (push v s).y = s.y := by
  simp [push]

@[simp] theorem push_p (v : Byte) (s : State) : (push v s).p = s.p := by
  simp [push]

@[simp] theorem push_pc (v : Byte) (s : State) : (push v s).pc = s.pc := by
  simp [push]

@[simp] theorem push_cyclesLeft (v : Byte) (s : State) : (push v s).cyclesLeft = s.cyclesLeft := by
  simp [push]

@[simp] theorem push_nmiPending (v : Byte) (s : State) : (push v s).nmiPending = s.nmiPending := by
  simp [push]

@[simp] theorem push_irqPending (v : Byte) (s : State) : (push v s).irqPending = s.irqPending := by
  simp [push]

@[simp] theorem push_slots (v : Byte) (s : State) : (push v s).slots = s.slots := by
  simp [push]

@[simp] theorem push_frameDone (v : Byte) (s : State) : (push v s).frameDone = s.frameDone := by
  simp [push]

@[simp] theorem push_draws (v : Byte) (s : State) : (push v s).draws = s.draws := by
  simp [push]

@[simp] theorem push_launch (v : Byte) (s : State) : (push v s).launch = s.launch := by
  simp [push]

theorem push_sp (v : Byte) (s : State) : (push v s).sp = s.sp - 1 := by
  simp [push]

/-- R28, R73: a pull moves S up and changes nothing else but the count of draws. -/
theorem pull_state (s : State) : ∃ n, (pull s).2 = { s with sp := s.sp + 1, draws := n } := by
  obtain ⟨n, h⟩ := afterRead_eq { s with sp := s.sp + 1 } (stackAddress (s.sp + 1))
  exact ⟨n, h⟩

theorem pullWord_state (s : State) : ∃ n, (pullWord s).2 = { s with sp := s.sp + 2, draws := n } := by
  obtain ⟨n, hn⟩ := pull_state s
  obtain ⟨m, hm⟩ := pull_state (pull s).2
  refine ⟨m, ?_⟩
  simp only [pullWord]
  rw [hm, hn]
  simp [BitVec.add_assoc]

theorem pushWord_sp (w : Word) (s : State) : (pushWord w s).sp = s.sp - 2 := by
  simp only [pushWord, push_sp]
  rw [BitVec.sub_sub]
  rfl

/-- R27: a push stores one byte, at the stack address of S before it moves. -/
theorem push_storesByte (v : Byte) (s : State) : StoresByte (stackAddress s.sp) v s (push v s) :=
  busWrite_storesByte (stackAddress s.sp) v s

end Sys2Proof.Machine
end

