-- ==== Sys2Proof/Laws/Shape.lean ====
section
/-! SUPPORT. The shape of every instruction's execution, by its mnemonic and operand: one lemma per shape says which
shared operation `exec` is, so that a proof about a family never splits on the 256 constructors again. -/

namespace Sys2Proof.Machine

/-- The instructions that read an operand and store nothing (R150 to R152, R170 to R178, R181 to R183, R282). -/
def readEffect : Mnemonic → Option (Byte → State → State)
  | .lda => some setA
  | .ldx => some setX
  | .ldy => some setY
  | .adc => some addWithCarry
  | .sbc => some subtractWithCarry
  | .and => some fun m t => setA (t.a &&& m) t
  | .ora => some fun m t => setA (t.a ||| m) t
  | .eor => some fun m t => setA (t.a ^^^ m) t
  | .bit => some bitTest
  | .cmp => some fun m t => compareWith t.a m t
  | .cpx => some fun m t => compareWith t.x m t
  | .cpy => some fun m t => compareWith t.y m t
  | _ => none

theorem exec_read (i : Instr) (s : State) (f : Byte → State → State) (o : Operand)
    (hf : readEffect i.mnemonic = some f) (ho : i.operand = some o) : exec i s = execRead o i.baseCycles true f s := by
  cases i <;> cases hf <;> cases ho <;> rfl

/-- The stores of a register (R153 to R155). -/
def storeValue : Mnemonic → Option (State → Byte)
  | .sta => some fun t => t.a
  | .stx => some fun t => t.x
  | .sty => some fun t => t.y
  | _ => none

theorem exec_store (i : Instr) (s : State) (f : State → Byte) (o : Operand)
    (hf : storeValue i.mnemonic = some f) (ho : i.operand = some o) : exec i s = execStore o i.baseCycles f s := by
  cases i <;> cases hf <;> cases ho <;> rfl

/-- The read-modify-write instructions: the byte written and what else changes (R179, R180, R200 to R204). -/
def modifyEffect : Mnemonic → Option ((Byte → State → Byte) × (Byte → State → State))
  | .inc => some (fun m _ => m + 1, fun m t => setZNOf (m + 1) t)
  | .dec => some (fun m _ => m - 1, fun m t => setZNOf (m - 1) t)
  | .asl => some (shiftedByte .asl, shiftEffect .asl)
  | .lsr => some (shiftedByte .lsr, shiftEffect .lsr)
  | .rol => some (shiftedByte .rol, shiftEffect .rol)
  | .ror => some (shiftedByte .ror, shiftEffect .ror)
  | _ => none

theorem exec_modify (i : Instr) (s : State) (v : Byte → State → Byte) (f : Byte → State → State) (o : Operand)
    (hf : modifyEffect i.mnemonic = some (v, f)) (ho : i.operand = some o) :
    exec i s = execModify o i.baseCycles v f s := by
  cases i <;> cases hf <;> cases ho <;> rfl

/-- The Implicit instructions: the shifts of A, the transfers, the register increments and decrements, the stack and
flag instructions, the returns, BRK, NOP and KIL. -/
def impliedEffect : Mnemonic → Option (State → State)
  | .asl => some (shiftA .asl)
  | .lsr => some (shiftA .lsr)
  | .rol => some (shiftA .rol)
  | .ror => some (shiftA .ror)
  | .tax => some fun t => setX t.a t
  | .tay => some fun t => setY t.a t
  | .txa => some fun t => setA t.x t
  | .tya => some fun t => setA t.y t
  | .tsx => some fun t => setX t.sp t
  | .txs => some setStackFromX
  | .inx => some fun t => setX (t.x + 1) t
  | .iny => some fun t => setY (t.y + 1) t
  | .dex => some fun t => setX (t.x - 1) t
  | .dey => some fun t => setY (t.y - 1) t
  | .pha => some fun t => push t.a t
  | .pla => some pullA
  | .php => some pushStatus
  | .plp => some pullStatus
  | .clc => some (writeFlag .c false)
  | .sec => some (writeFlag .c true)
  | .cli => some (writeFlag .i false)
  | .sei => some (writeFlag .i true)
  | .cld => some (writeFlag .d false)
  | .sed => some (writeFlag .d true)
  | .clv => some (writeFlag .v false)
  | .rts => some returnFromCall
  | .brk => some (takeException .brk)
  | .rti => some returnFromException
  | .nop => some id
  | .kil => some id
  | _ => none

theorem exec_implied (i : Instr) (s : State) (f : State → State)
    (hf : impliedEffect i.mnemonic = some f) (ho : i.operand = none) : exec i s = execImplied i.baseCycles f s := by
  cases i <;> cases hf <;> cases ho <;> rfl

/-- R281: the illegal NOPs with an operand. -/
theorem exec_skip (i : Instr) (s : State) (o : Operand) (hm : i.mnemonic = .nop) (ho : i.operand = some o) :
    exec i s = execSkip o i.baseCycles true s := by
  cases i <;> cases hm <;> cases ho <;> rfl

/-- R210. -/
theorem exec_jump (i : Instr) (s : State) (o : Operand) (hm : i.mnemonic = .jmp) (ho : i.operand = some o) :
    exec i s = execJump o i.baseCycles s := by
  cases i <;> cases hm <;> cases ho <;> rfl

/-- R211. -/
theorem exec_call (i : Instr) (s : State) (o : Operand) (hm : i.mnemonic = .jsr) (ho : i.operand = some o) :
    exec i s = execCall o i.baseCycles s := by
  cases i <;> cases hm
  cases ho
  rfl

/-- R213 to R220: the flag a branch tests and the value it is taken on. -/
def branchTest : Mnemonic → Option (Flag × Bool)
  | .bcc => some (.c, false)
  | .bcs => some (.c, true)
  | .beq => some (.z, true)
  | .bne => some (.z, false)
  | .bmi => some (.n, true)
  | .bpl => some (.n, false)
  | .bvc => some (.v, false)
  | .bvs => some (.v, true)
  | _ => none

theorem exec_branch (i : Instr) (s : State) (f : Flag) (b : Bool) (hf : branchTest i.mnemonic = some (f, b)) :
    ∃ o, i.operand = some (.rel o) ∧ exec i s = execBranch f b o i.baseCycles s := by
  cases i <;> cases hf <;> exact ⟨_, rfl, rfl⟩

/-! ### The illegal instructions (R261) -/

/-- Whether an illegal mnemonic's operation depends on ILLEGAL_SEMANTICS, and if so its extra-cycle request. -/
def illegalRequest : Mnemonic → Option Bool
  | .slo | .rla | .sre | .rra | .dcp | .isc | .sax | .anc | .alr | .arr | .xaa | .axs | .ahx | .shy | .shx | .tas =>
    some false
  | .lax | .las => some true
  | _ => none

theorem bySemantics_stub (o : Operand) (base : Nat) (xi : Bool) (f : State → Result) (s : State)
    (hs : s.launch.illegal = .stub) : bySemantics o base xi f s = execSkip o base xi s := by
  simp only [bySemantics, hs]

theorem bySemantics_reference (o : Operand) (base : Nat) (xi : Bool) (f : State → Result) (s : State)
    (hs : s.launch.illegal = .reference) : bySemantics o base xi f s = f s := by
  simp only [bySemantics, hs]

/-- R261: under `stub` an illegal instruction's addressing mode runs and nothing else does. -/
theorem exec_stub (i : Instr) (s : State) (xi : Bool) (o : Operand) (hx : illegalRequest i.mnemonic = some xi)
    (ho : i.operand = some o) (hs : s.launch.illegal = .stub) : exec i s = execSkip o i.baseCycles xi s := by
  cases i <;> cases hx <;> cases ho <;> unfold exec <;> exact bySemantics_stub _ _ _ _ s hs

/-- R262 to R265, R268, R269: the reference read-modify-write combinations: the byte written, what else changes. -/
def combinationEffect : Mnemonic → Option ((Byte → State → Byte) × (Byte → State → State))
  | .slo => some (shiftedByte .asl, shiftThen .asl (· ||| ·))
  | .rla => some (shiftedByte .rol, shiftThen .rol (· &&& ·))
  | .sre => some (shiftedByte .lsr, shiftThen .lsr (· ^^^ ·))
  | .rra => some (shiftedByte .ror, rotateThenAdd)
  | .dcp => some (fun m _ => m - 1, fun m t => compareWith t.a (m - 1) t)
  | .isc => some (fun m _ => m + 1, fun m t => subtractWithCarry (m + 1) t)
  | _ => none

theorem exec_combination (i : Instr) (s : State) (v : Byte → State → Byte) (f : Byte → State → State) (o : Operand)
    (hf : combinationEffect i.mnemonic = some (v, f)) (ho : i.operand = some o) (hs : s.launch.illegal = .reference) :
    exec i s = execModify o i.baseCycles v f s := by
  cases i <;> cases hf <;> cases ho <;> unfold exec <;> exact bySemantics_reference _ _ _ _ s hs

/-- R266. -/
theorem exec_sax (i : Instr) (s : State) (o : Operand) (hm : i.mnemonic = .sax) (ho : i.operand = some o)
    (hs : s.launch.illegal = .reference) : exec i s = execStore o i.baseCycles (fun t => t.a &&& t.x) s := by
  cases i <;> cases hm <;> cases ho <;> unfold exec <;> exact bySemantics_reference _ _ _ _ s hs

/-- R270 to R274, R279: the reference operations that read and store nothing, with their extra-cycle request. -/
def referenceRead : Mnemonic → Option (Bool × (Byte → State → State))
  | .anc => some (false, andCopyNToC)
  | .alr => some (false, andShiftRight)
  | .arr => some (false, andRotateRight)
  | .xaa => some (false, fun _ t => unstableXaa t)
  | .axs => some (false, subtractToX)
  | .las => some (true, setAXS)
  | _ => none

theorem exec_referenceRead (i : Instr) (s : State) (xi : Bool) (f : Byte → State → State) (o : Operand)
    (hf : referenceRead i.mnemonic = some (xi, f)) (ho : i.operand = some o) (hs : s.launch.illegal = .reference) :
    exec i s = execRead o i.baseCycles xi f s := by
  cases i <;> cases hf <;> cases ho <;> unfold exec <;> exact bySemantics_reference _ _ _ _ s hs

/-- R267: LAX outside Immediate format. -/
theorem exec_lax (i : Instr) (s : State) (o : Operand) (hm : i.mnemonic = .lax) (ho : i.operand = some o)
    (hi : ∀ b, o ≠ .imm b) (hs : s.launch.illegal = .reference) : exec i s = execRead o i.baseCycles true setAX s := by
  cases i <;> cases hm <;> cases ho <;> unfold exec <;>
    first
      | exact absurd rfl (hi _)
      | exact bySemantics_reference _ _ _ _ s hs

/-- R267, log 12: LAX in Immediate format. -/
theorem exec_laxImm (b : Byte) (s : State) (hs : s.launch.illegal = .reference) :
    exec (.laxImm b) s = .next (charge 2 false true (unstableLoadAX (load (.imm b) s).state)) := by
  unfold exec
  exact bySemantics_reference _ _ _ _ s hs

/-- R275 to R278: what an unstable store changes beside the byte it stores. -/
def unstableStoreEffect : Mnemonic → Option (State → State)
  | .ahx | .shy | .shx => some id
  | .tas => some setStackFromAX
  | _ => none

theorem exec_unstableStore (i : Instr) (s : State) (f : State → State) (o : Operand)
    (hf : unstableStoreEffect i.mnemonic = some f) (ho : i.operand = some o) (hs : s.launch.illegal = .reference) :
    exec i s = execUnstableStore o i.baseCycles f s := by
  cases i <;> cases hf <;> cases ho <;> unfold exec <;> exact bySemantics_reference _ _ _ _ s hs

/-! ### Every instruction has a shape -/

/-- The shapes of the instructions, by mnemonic and operand: every instruction has one. -/
theorem instr_shape (i : Instr) :
    (∃ f, impliedEffect i.mnemonic = some f ∧ i.operand = none) ∨
    (∃ o, i.operand = some o ∧
      ((∃ f, readEffect i.mnemonic = some f) ∨ (∃ f, storeValue i.mnemonic = some f) ∨
       (∃ v f, modifyEffect i.mnemonic = some (v, f)) ∨ i.mnemonic = .nop ∨ i.mnemonic = .jmp ∨ i.mnemonic = .jsr ∨
       (∃ f b, branchTest i.mnemonic = some (f, b)) ∨
       (∃ xi, illegalRequest i.mnemonic = some xi ∧
        ((∃ v f, combinationEffect i.mnemonic = some (v, f)) ∨ i.mnemonic = .sax ∨
         (∃ xi f, referenceRead i.mnemonic = some (xi, f)) ∨ i.mnemonic = .lax ∨
         (∃ f, unstableStoreEffect i.mnemonic = some f))))) := by
  cases i
  all_goals first
    | exact .inl ⟨_, rfl, rfl⟩
    | (refine .inr ⟨_, rfl, ?_⟩
       first
         | exact .inl ⟨_, rfl⟩
         | exact .inr (.inl ⟨_, rfl⟩)
         | exact .inr (.inr (.inl ⟨_, _, rfl⟩))
         | exact .inr (.inr (.inr (.inl rfl)))
         | exact .inr (.inr (.inr (.inr (.inl rfl))))
         | exact .inr (.inr (.inr (.inr (.inr (.inl rfl)))))
         | exact .inr (.inr (.inr (.inr (.inr (.inr (.inl ⟨_, _, rfl⟩))))))
         | (refine .inr (.inr (.inr (.inr (.inr (.inr (.inr ⟨_, rfl, ?_⟩))))))
            first
              | exact .inl ⟨_, _, rfl⟩
              | exact .inr (.inl rfl)
              | exact .inr (.inr (.inl ⟨_, _, rfl⟩))
              | exact .inr (.inr (.inr (.inl rfl)))
              | exact .inr (.inr (.inr (.inr ⟨_, rfl⟩)))))

end Sys2Proof.Machine
end

