-- ==== Sys2Proof/Laws/Exec.lean ====
section
/-! SUPPORT. What an instruction can do to the state, said once: it changes registers, P, PC, the countdown and the count
of draws, and it writes bytes through the Bus (R334, R371). Every invariant and frame follows from that. -/

namespace Sys2Proof.Machine

/-- `t` is reached from `s` by changes of the CPU's registers, its countdown and the count of draws, and by Bus writes. -/
inductive Effect : State → State → Prop
  | refl (s : State) : Effect s s
  | cpu (s t : State) (a x y sp p : Byte) (pc : Word) (n k : Nat) (h : Effect s t) :
      Effect s { t with a := a, x := x, y := y, sp := sp, p := p, pc := pc, cyclesLeft := n, draws := k }
  | write (s t : State) (ea : Word) (v : Byte) (h : Effect s t) : Effect s (busWrite ea v t)

theorem Effect.trans {s t u : State} (h : Effect s t) (k : Effect t u) : Effect s u := by
  induction k with
  | refl => exact h
  | cpu t a x y sp p pc n k _ ih => exact .cpu _ _ _ _ _ _ _ _ _ _ ih
  | write t ea v _ ih => exact .write _ _ _ _ ih

/-- Changing registers, countdown and draws is an effect. -/
theorem Effect.change (s : State) (a x y sp p : Byte) (pc : Word) (n k : Nat) :
    Effect s { s with a := a, x := x, y := y, sp := sp, p := p, pc := pc, cyclesLeft := n, draws := k } :=
  .cpu s s a x y sp p pc n k (.refl s)

/-- A relation between states that is reflexive and transitive, and holds of a register change and of a Bus write,
holds of every effect. -/
theorem Effect.lift {R : State → State → Prop} (hr : ∀ s, R s s) (ht : ∀ s t u, R s t → R t u → R s u)
    (hc : ∀ (s : State) (a x y sp p : Byte) (pc : Word) (n k : Nat),
      R s { s with a := a, x := x, y := y, sp := sp, p := p, pc := pc, cyclesLeft := n, draws := k })
    (hw : ∀ (s : State) (ea : Word) (v : Byte), R s (busWrite ea v s)) {s t : State} (h : Effect s t) : R s t := by
  induction h with
  | refl => exact hr _
  | cpu t a x y sp p pc n k _ ih => exact ht _ _ _ ih (hc _ _ _ _ _ _ _ _ _)
  | write t ea v _ ih => exact ht _ _ _ ih (hw _ _ _)

theorem effect_resolve (o : Operand) (s : State) : Effect s (resolve o s).state := by
  obtain ⟨n, h⟩ := resolve_state o s
  rw [h]
  exact Effect.change s s.a s.x s.y s.sp s.p s.pc s.cyclesLeft n

theorem effect_load (o : Operand) (s : State) : Effect s (load o s).state := by
  obtain ⟨n, h⟩ := load_state o s
  rw [h]
  exact Effect.change s s.a s.x s.y s.sp s.p s.pc s.cyclesLeft n

theorem effect_afterRead (a : Word) (s : State) : Effect s (s.afterRead a) := by
  obtain ⟨n, h⟩ := afterRead_eq s a
  rw [h]
  exact Effect.change s s.a s.x s.y s.sp s.p s.pc s.cyclesLeft n

theorem effect_busWrite (a : Word) (v : Byte) (s : State) : Effect s (busWrite a v s) :=
  .write s s a v (.refl s)

theorem effect_charge (base : Nat) (xm xi : Bool) (s : State) : Effect s (charge base xm xi s) :=
  Effect.change s s.a s.x s.y s.sp s.p s.pc _ s.draws

theorem effect_push (v : Byte) (s : State) : Effect s (push v s) :=
  (effect_busWrite (stackAddress s.sp) v s).trans (Effect.change (busWrite (stackAddress s.sp) v s) _ _ _ _ _ _ _ _)

theorem effect_pushWord (w : Word) (s : State) : Effect s (pushWord w s) :=
  (effect_push (hiByte w) s).trans (effect_push (loByte w) _)

theorem effect_pull (s : State) : Effect s (pull s).2 := by
  obtain ⟨n, h⟩ := pull_state s
  rw [h]
  exact Effect.change s s.a s.x s.y (s.sp + 1) s.p s.pc s.cyclesLeft n

theorem effect_pullWord (s : State) : Effect s (pullWord s).2 :=
  (effect_pull s).trans (effect_pull _)

theorem effect_readPair (l h : Word) (s : State) : Effect s (readPair l h s).2 :=
  (effect_afterRead l s).trans (effect_afterRead h _)

/-! ### The data operations -/

theorem effect_setA (m : Byte) (s : State) : Effect s (setA m s) := Effect.change s _ _ _ _ _ _ _ _
theorem effect_setX (m : Byte) (s : State) : Effect s (setX m s) := Effect.change s _ _ _ _ _ _ _ _
theorem effect_setY (m : Byte) (s : State) : Effect s (setY m s) := Effect.change s _ _ _ _ _ _ _ _
theorem effect_setStackFromX (s : State) : Effect s (setStackFromX s) := Effect.change s _ _ _ _ _ _ _ _
theorem effect_addWithCarry (m : Byte) (s : State) : Effect s (addWithCarry m s) := Effect.change s _ _ _ _ _ _ _ _
theorem effect_subtractWithCarry (m : Byte) (s : State) : Effect s (subtractWithCarry m s) := effect_addWithCarry _ s
theorem effect_compareWith (r m : Byte) (s : State) : Effect s (compareWith r m s) := Effect.change s _ _ _ _ _ _ _ _
theorem effect_bitTest (m : Byte) (s : State) : Effect s (bitTest m s) := Effect.change s _ _ _ _ _ _ _ _
theorem effect_setZNOf (v : Byte) (s : State) : Effect s (setZNOf v s) := Effect.change s _ _ _ _ _ _ _ _
theorem effect_shiftEffect (k : ShiftKind) (m : Byte) (s : State) : Effect s (shiftEffect k m s) :=
  Effect.change s _ _ _ _ _ _ _ _
theorem effect_shiftA (k : ShiftKind) (s : State) : Effect s (shiftA k s) := Effect.change s _ _ _ _ _ _ _ _
theorem effect_writeFlag (f : Flag) (b : Bool) (s : State) : Effect s (writeFlag f b s) := Effect.change s _ _ _ _ _ _ _ _
theorem effect_setAX (m : Byte) (s : State) : Effect s (setAX m s) := Effect.change s _ _ _ _ _ _ _ _
theorem effect_unstableLoadAX (s : State) : Effect s (unstableLoadAX s) := Effect.change s _ _ _ _ _ _ _ _
theorem effect_andCopyNToC (m : Byte) (s : State) : Effect s (andCopyNToC m s) := Effect.change s _ _ _ _ _ _ _ _
theorem effect_andShiftRight (m : Byte) (s : State) : Effect s (andShiftRight m s) := Effect.change s _ _ _ _ _ _ _ _
theorem effect_andRotateRight (m : Byte) (s : State) : Effect s (andRotateRight m s) := Effect.change s _ _ _ _ _ _ _ _
theorem effect_unstableXaa (s : State) : Effect s (unstableXaa s) := Effect.change s _ _ _ _ _ _ _ _
theorem effect_subtractToX (m : Byte) (s : State) : Effect s (subtractToX m s) := Effect.change s _ _ _ _ _ _ _ _
theorem effect_setAXS (m : Byte) (s : State) : Effect s (setAXS m s) := Effect.change s _ _ _ _ _ _ _ _
theorem effect_setStackFromAX (s : State) : Effect s (setStackFromAX s) := Effect.change s _ _ _ _ _ _ _ _
theorem effect_shiftThen (k : ShiftKind) (f : Byte → Byte → Byte) (m : Byte) (s : State) :
    Effect s (shiftThen k f m s) := (effect_shiftEffect k m s).trans (effect_setA _ _)
theorem effect_rotateThenAdd (m : Byte) (s : State) : Effect s (rotateThenAdd m s) :=
  (effect_shiftEffect .ror m s).trans (effect_addWithCarry _ _)
theorem effect_pullA (s : State) : Effect s (pullA s) :=
  (effect_pull s).trans (Effect.change (pull s).2 _ _ _ _ _ _ _ _)
theorem effect_pullStatus (s : State) : Effect s (pullStatus s) :=
  (effect_pull s).trans (Effect.change (pull s).2 _ _ _ _ _ _ _ _)
theorem effect_setP (p : Byte) (s : State) : Effect s { s with p := p } := Effect.change s _ _ _ _ _ _ _ _
theorem effect_pushStatus (s : State) : Effect s (pushStatus s) :=
  (effect_setP (setBreak InterruptKind.brk.breakPattern s.p) s).trans (effect_push _ _)
theorem effect_setPc (pc : Word) (s : State) : Effect s { s with pc := pc } := Effect.change s _ _ _ _ _ _ _ _
theorem effect_returnFromCall (s : State) : Effect s (returnFromCall s) :=
  (effect_pullWord s).trans (effect_setPc _ _)
theorem effect_returnFromException (s : State) : Effect s (returnFromException s) :=
  ((effect_pull s).trans (effect_setP _ _)).trans ((effect_pullWord _).trans (effect_setPc _ _))

/-- R376: taking an exception is an effect followed by the clearing of the kind's latch. -/
theorem takeException_cases (kind : InterruptKind) (s : State) :
    ∃ t, Effect s t ∧ takeException kind s = clearLatch kind t :=
  ⟨_, ((((effect_pushWord _ s).trans (effect_setP _ _)).trans (effect_push _ _)).trans (effect_setP _ _)).trans
    ((effect_readPair _ _ _).trans (effect_setPc _ _)), rfl⟩

/-- R242: BRK touches no latch. -/
theorem effect_break (s : State) : Effect s (takeException .brk s) := by
  obtain ⟨t, h, ht⟩ := takeException_cases .brk s
  rw [ht]
  exact h

/-! ### The shapes of execution -/

theorem execImplied_effect (base : Nat) (f : State → State) (hf : ∀ s, Effect s (f s)) (s t : State)
    (h : execImplied base f s = .next t) : Effect s t := by
  cases h
  exact (hf s).trans (effect_charge _ _ _ _)

theorem execRead_effect (o : Operand) (base : Nat) (xi : Bool) (f : Byte → State → State)
    (hf : ∀ m s, Effect s (f m s)) (s t : State) (h : execRead o base xi f s = .next t) : Effect s t := by
  cases h
  exact (effect_load o s).trans ((hf _ _).trans (effect_charge _ _ _ _))

theorem execStore_effect (o : Operand) (base : Nat) (f : State → Byte) (s t : State)
    (h : execStore o base f s = .next t) : Effect s t := by
  cases h
  exact (effect_resolve o s).trans ((effect_busWrite _ _ _).trans (effect_charge _ _ _ _))

theorem execModify_effect (o : Operand) (base : Nat) (v : Byte → State → Byte) (f : Byte → State → State)
    (hf : ∀ m s, Effect s (f m s)) (s t : State) (h : execModify o base v f s = .next t) : Effect s t := by
  cases h
  exact (effect_resolve o s).trans ((effect_afterRead _ _).trans ((hf _ _).trans
    ((effect_busWrite _ _ _).trans (effect_charge _ _ _ _))))

theorem execSkip_effect (o : Operand) (base : Nat) (xi : Bool) (s t : State) (h : execSkip o base xi s = .next t) :
    Effect s t := by
  cases h
  exact (effect_resolve o s).trans (effect_charge _ _ _ _)

theorem bySemantics_effect (o : Operand) (base : Nat) (xi : Bool) (f : State → Result)
    (hf : ∀ s t, f s = .next t → Effect s t) (s t : State) (h : bySemantics o base xi f s = .next t) : Effect s t := by
  unfold bySemantics at h
  split at h
  · exact execSkip_effect _ _ _ _ _ h
  · exact hf _ _ h

theorem execUnstableStore_effect (o : Operand) (base : Nat) (f : State → State) (hf : ∀ s, Effect s (f s))
    (s t : State) (h : execUnstableStore o base f s = .next t) : Effect s t := by
  cases h
  exact (effect_resolve o s).trans ((Effect.change _ _ _ _ _ _ _ _ _).trans ((hf _).trans
    ((effect_busWrite _ _ _).trans (effect_charge _ _ _ _))))

theorem execJump_effect (o : Operand) (base : Nat) (s t : State) (h : execJump o base s = .next t) : Effect s t := by
  cases h
  exact (effect_resolve o s).trans ((effect_setPc _ _).trans (effect_charge _ _ _ _))

theorem execCall_effect (o : Operand) (base : Nat) (s t : State) (h : execCall o base s = .next t) : Effect s t := by
  cases h
  exact (effect_resolve o s).trans ((effect_pushWord _ _).trans ((effect_setPc _ _).trans (effect_charge _ _ _ _)))

theorem execBranch_effect (f : Flag) (b : Bool) (o : Byte) (base : Nat) (s t : State)
    (h : execBranch f b o base s = .next t) : Effect s t := by
  unfold execBranch at h
  cases h
  refine (effect_resolve (.rel o) s).trans (Effect.trans ?_ (effect_charge _ _ _ _))
  split
  · exact effect_setPc _ _
  · exact .refl _

/-! ### Every instruction -/

theorem readEffect_effect (n : Mnemonic) (f : Byte → State → State) (hf : readEffect n = some f) (m : Byte)
    (s : State) : Effect s (f m s) := by
  cases n <;> cases hf
  case lda | and | ora | eor => exact effect_setA _ s
  case ldx => exact effect_setX _ s
  case ldy => exact effect_setY _ s
  case adc => exact effect_addWithCarry _ s
  case sbc => exact effect_subtractWithCarry _ s
  case bit => exact effect_bitTest _ s
  case cmp | cpx | cpy => exact effect_compareWith _ _ s

theorem modifyEffect_effect (n : Mnemonic) (v : Byte → State → Byte) (f : Byte → State → State)
    (hf : modifyEffect n = some (v, f)) (m : Byte) (s : State) : Effect s (f m s) := by
  cases n <;> cases hf
  case inc | dec => exact effect_setZNOf _ s
  case asl | lsr | rol | ror => exact effect_shiftEffect _ _ s

theorem impliedEffect_effect (n : Mnemonic) (f : State → State) (hf : impliedEffect n = some f) (s : State) :
    Effect s (f s) := by
  cases n <;> cases hf
  case asl | lsr | rol | ror => exact effect_shiftA _ s
  case tax | tsx | inx | dex => exact effect_setX _ s
  case tay | iny | dey => exact effect_setY _ s
  case txa | tya => exact effect_setA _ s
  case txs => exact effect_setStackFromX s
  case clc | sec | cli | sei | cld | sed | clv => exact effect_writeFlag _ _ s
  case pha => exact effect_push _ s
  case pla => exact effect_pullA s
  case php => exact effect_pushStatus s
  case plp => exact effect_pullStatus s
  case rts => exact effect_returnFromCall s
  case brk => exact effect_break s
  case rti => exact effect_returnFromException s
  case nop | kil => exact .refl s

theorem combinationEffect_effect (n : Mnemonic) (v : Byte → State → Byte) (f : Byte → State → State)
    (hf : combinationEffect n = some (v, f)) (m : Byte) (s : State) : Effect s (f m s) := by
  cases n <;> cases hf
  case slo | rla | sre => exact effect_shiftThen _ _ _ s
  case rra => exact effect_rotateThenAdd _ s
  case dcp => exact effect_compareWith _ _ s
  case isc => exact effect_subtractWithCarry _ s

theorem referenceRead_effect (n : Mnemonic) (xi : Bool) (f : Byte → State → State)
    (hf : referenceRead n = some (xi, f)) (m : Byte) (s : State) : Effect s (f m s) := by
  cases n <;> cases hf
  case anc => exact effect_andCopyNToC _ s
  case alr => exact effect_andShiftRight _ s
  case arr => exact effect_andRotateRight _ s
  case xaa => exact effect_unstableXaa s
  case axs => exact effect_subtractToX _ s
  case las => exact effect_setAXS _ s

theorem unstableStoreEffect_effect (n : Mnemonic) (f : State → State) (hf : unstableStoreEffect n = some f)
    (s : State) : Effect s (f s) := by
  cases n <;> cases hf
  case ahx | shy | shx => exact .refl s
  case tas => exact effect_setStackFromAX s

/-- Every instruction answers a next state, and what it can do to the state is an effect and nothing else. -/
theorem exec_next (i : Instr) (s : State) : ∃ t, exec i s = .next t ∧ Effect s t := by
  have done : ∀ r : Result, exec i s = r → (∃ t, r = .next t) → (∀ t, r = .next t → Effect s t) →
      ∃ t, exec i s = .next t ∧ Effect s t := by
    rintro r hr ⟨t, ht⟩ he
    exact ⟨t, hr.trans ht, he t ht⟩
  rcases instr_shape i with ⟨f, hf, ho⟩ | ⟨o, ho, h⟩
  · exact done _ (exec_implied i s f hf ho) ⟨_, rfl⟩ fun t h => execImplied_effect _ _ (impliedEffect_effect _ _ hf) s t h
  rcases h with ⟨f, hf⟩ | ⟨f, hf⟩ | ⟨v, f, hf⟩ | hm | hm | hm | ⟨f, b, hf⟩ | ⟨xi, hx, h⟩
  · exact done _ (exec_read i s f o hf ho) ⟨_, rfl⟩ fun t h => execRead_effect _ _ _ _ (readEffect_effect _ _ hf) s t h
  · exact done _ (exec_store i s f o hf ho) ⟨_, rfl⟩ fun t h => execStore_effect _ _ _ s t h
  · exact done _ (exec_modify i s v f o hf ho) ⟨_, rfl⟩ fun t h =>
      execModify_effect _ _ _ _ (modifyEffect_effect _ _ _ hf) s t h
  · exact done _ (exec_skip i s o hm ho) ⟨_, rfl⟩ fun t h => execSkip_effect _ _ _ s t h
  · exact done _ (exec_jump i s o hm ho) ⟨_, rfl⟩ fun t h => execJump_effect _ _ s t h
  · exact done _ (exec_call i s o hm ho) ⟨_, rfl⟩ fun t h => execCall_effect _ _ s t h
  · obtain ⟨o', ho', he⟩ := exec_branch i s f b hf
    exact done _ he ⟨_, rfl⟩ fun t h => execBranch_effect _ _ _ _ s t h
  cases hs : s.launch.illegal with
  | stub => exact done _ (exec_stub i s xi o hx ho hs) ⟨_, rfl⟩ fun t h => execSkip_effect _ _ _ s t h
  | reference =>
    rcases h with ⟨v, f, hf⟩ | hm | ⟨xi, f, hf⟩ | hm | ⟨f, hf⟩
    · exact done _ (exec_combination i s v f o hf ho hs) ⟨_, rfl⟩ fun t h =>
        execModify_effect _ _ _ _ (combinationEffect_effect _ _ _ hf) s t h
    · exact done _ (exec_sax i s o hm ho hs) ⟨_, rfl⟩ fun t h => execStore_effect _ _ _ s t h
    · exact done _ (exec_referenceRead i s xi f o hf ho hs) ⟨_, rfl⟩ fun t h =>
        execRead_effect _ _ _ _ (referenceRead_effect _ _ _ hf) s t h
    · by_cases hi : ∃ b, o = .imm b
      · obtain ⟨b, rfl⟩ := hi
        have hl : i = .laxImm b := by cases i <;> cases hm <;> cases ho; rfl
        subst hl
        exact ⟨_, exec_laxImm b s hs, (effect_load _ s).trans ((effect_unstableLoadAX _).trans (effect_charge _ _ _ _))⟩
      · exact done _ (exec_lax i s o hm ho (fun b hb => hi ⟨b, hb⟩) hs) ⟨_, rfl⟩ fun t h =>
          execRead_effect _ _ _ _ (fun m s => effect_setAX m s) s t h
    · exact done _ (exec_unstableStore i s f o hf ho hs) ⟨_, rfl⟩ fun t h =>
        execUnstableStore_effect _ _ _ (unstableStoreEffect_effect _ _ hf) s t h

/-- What an instruction can do to the state: an effect, and nothing else. -/
theorem exec_effect (i : Instr) (s t : State) (h : exec i s = .next t) : Effect s t := by
  obtain ⟨u, hu, he⟩ := exec_next i s
  rw [hu] at h
  cases h
  exact he

end Sys2Proof.Machine
end

