-- ==== Sys2Proof/Laws/Flags.lean ====
section
/-! SUPPORT. The laws of the status register's fields: what each flag computation leaves in each field. -/

namespace Sys2Proof.Machine

@[simp] theorem getFlag_setFlag (f g : Flag) (b : Bool) (p : Byte) :
    getFlag f (setFlag g b p) = if f = g then b else getFlag f p := by
  cases f <;> cases g <;> cases b <;> simp [getFlag, setFlag, Flag.bit, Flag.mask]

@[simp] theorem getBreak_setFlag (g : Flag) (b : Bool) (p : Byte) : getBreak (setFlag g b p) = getBreak p := by
  cases g <;> cases b <;> simp only [getBreak, setFlag, Flag.mask, if_true, if_false, Bool.false_eq_true] <;>
    (ext i hi; interval_cases i <;> simp)

@[simp] theorem getFlag_setBreak (f : Flag) (b : BitVec 2) (p : Byte) : getFlag f (setBreak b p) = getFlag f p := by
  cases f <;> simp [getFlag, setBreak, Flag.bit]

@[simp] theorem getBreak_setBreak (b : BitVec 2) (p : Byte) : getBreak (setBreak b p) = b := by
  ext i hi
  interval_cases i <;> simp [getBreak, setBreak]

/-- R13: what SetZN leaves in each flag. -/
@[simp] theorem getFlag_setZN (f : Flag) (v p : Byte) :
    getFlag f (setZN v p) = if f = .n then v.msb else if f = .z then v == 0 else getFlag f p := by
  simp [setZN]

@[simp] theorem getBreak_setZN (v p : Byte) : getBreak (setZN v p) = getBreak p := by
  simp [setZN]

/-- R185: what AddWithCarry leaves in each flag. -/
theorem getFlag_addFlags (f : Flag) (a m p : Byte) :
    getFlag f (addFlags a m p) =
      if f = .n then (addResult a m (getFlag .c p)).msb
      else if f = .z then addResult a m (getFlag .c p) == 0
      else if f = .v then addOverflow a m (getFlag .c p)
      else if f = .c then addCarry a m (getFlag .c p)
      else getFlag f p := by
  simp [addFlags]

@[simp] theorem getBreak_addFlags (a m p : Byte) : getBreak (addFlags a m p) = getBreak p := by
  simp [addFlags]

/-- R186: what Compare leaves in each flag. -/
theorem getFlag_compareFlags (f : Flag) (r m p : Byte) :
    getFlag f (compareFlags r m p) =
      if f = .n then (r - m).msb
      else if f = .z then r == m
      else if f = .c then decide (m.toNat ≤ r.toNat)
      else getFlag f p := by
  simp [compareFlags]

@[simp] theorem getBreak_compareFlags (r m p : Byte) : getBreak (compareFlags r m p) = getBreak p := by
  simp [compareFlags]

/-- R178: what BIT leaves in each flag. -/
theorem getFlag_bitFlags (f : Flag) (a m p : Byte) :
    getFlag f (bitFlags a m p) =
      if f = .v then m.getLsbD 6
      else if f = .n then m.getLsbD 7
      else if f = .z then a &&& m == 0
      else getFlag f p := by
  simp [bitFlags]

@[simp] theorem getBreak_bitFlags (a m p : Byte) : getBreak (bitFlags a m p) = getBreak p := by
  simp [bitFlags]

/-- R200 to R203: what a shift leaves in each flag. -/
theorem getFlag_shiftFlags (f : Flag) (k : ShiftKind) (m p : Byte) :
    getFlag f (shiftFlags k m p) =
      if f = .n then (shiftResult k m (getFlag .c p)).msb
      else if f = .z then shiftResult k m (getFlag .c p) == 0
      else if f = .c then shiftCarry k m
      else getFlag f p := by
  simp [shiftFlags]

@[simp] theorem getBreak_shiftFlags (k : ShiftKind) (m p : Byte) : getBreak (shiftFlags k m p) = getBreak p := by
  simp [shiftFlags]

/-- P is determined by its six flags and its Break field: no bit is unused (R26, R31). -/
theorem status_ext (p q : Byte) (hf : ∀ f, getFlag f p = getFlag f q) (hb : getBreak p = getBreak q) : p = q := by
  have hc := hf .c
  have hz := hf .z
  have hi := hf .i
  have hd := hf .d
  have hv := hf .v
  have hn := hf .n
  simp only [getFlag, Flag.bit] at hc hz hi hd hv hn
  have h4 : p.getLsbD 4 = q.getLsbD 4 := by simpa [getBreak] using congrArg (fun w => w.getLsbD 0) hb
  have h5 : p.getLsbD 5 = q.getLsbD 5 := by simpa [getBreak] using congrArg (fun w => w.getLsbD 1) hb
  apply BitVec.eq_of_getLsbD_eq
  intro i hi8
  interval_cases i <;> assumption

end Sys2Proof.Machine
end

