-- ==== Sys2Proof/Laws/Frames.lean ====
section
/-! SUPPORT. Frames: what each shape of execution answers, and what a change of registers or a Bus write leaves as it
was, in the vocabulary of Safety.lean. -/

namespace Sys2Proof.Machine

/-! ### What each shape answers -/

theorem load_xm (o : Operand) (s : State) : (load o s).xm = (resolve o s).xm := by
  cases o <;> rfl

theorem execRead_next (o : Operand) (base : Nat) (xi : Bool) (f : Byte → State → State) (s : State) :
    ∃ n, execRead o base xi f s =
      .next (charge base (resolve o s).xm xi (f (load o s).value { s with draws := n })) := by
  obtain ⟨n, h⟩ := load_state o s
  exact ⟨n, by rw [← h, ← load_xm]; rfl⟩

theorem execStore_next (o : Operand) (base : Nat) (f : State → Byte) (s : State) :
    ∃ n, execStore o base f s = .next (charge base (resolve o s).xm false
      (busWrite (resolve o s).ea (f { s with draws := n }) { s with draws := n })) := by
  obtain ⟨n, h⟩ := resolve_state o s
  exact ⟨n, by rw [← h]; rfl⟩

theorem execModify_next (o : Operand) (base : Nat) (v : Byte → State → Byte) (f : Byte → State → State) (s : State) :
    ∃ n, execModify o base v f s = .next (charge base (resolve o s).xm false
      (busWrite (resolve o s).ea (v (byteAt o s) { s with draws := n }) (f (byteAt o s) { s with draws := n }))) := by
  obtain ⟨n, h⟩ := resolve_state o s
  obtain ⟨m, k⟩ := afterRead_eq (resolve o s).state (resolve o s).ea
  refine ⟨m, ?_⟩
  have e : (resolve o s).state.afterRead (resolve o s).ea = { s with draws := m } := by rw [k, h]
  rw [← e]
  rfl

theorem execSkip_next (o : Operand) (base : Nat) (xi : Bool) (s : State) :
    ∃ n, execSkip o base xi s = .next (charge base (resolve o s).xm xi { s with draws := n }) := by
  obtain ⟨n, h⟩ := resolve_state o s
  exact ⟨n, by rw [← h]; rfl⟩

theorem modeRequests_some (i : Instr) (o : Operand) (s : State) (ho : i.operand = some o) :
    modeRequestsExtraCycle i s = (resolve o s).xm := by
  simp only [modeRequestsExtraCycle, ho]

theorem modeRequests_none (i : Instr) (s : State) (ho : i.operand = none) : modeRequestsExtraCycle i s = false := by
  simp only [modeRequestsExtraCycle, ho]

/-! ### A change of registers -/

/-- `t` is `s` but for A, X, Y, S, P, the countdown and the count of draws. -/
def ChangesRegisters (s t : State) : Prop :=
  t = { s with a := t.a, x := t.x, y := t.y, sp := t.sp, p := t.p, cyclesLeft := t.cyclesLeft, draws := t.draws }

theorem keepsMachine_refl (s : State) : KeepsMachine s s := ⟨rfl, Iff.rfl, rfl, rfl, rfl⟩

theorem keepsMachine_trans {s t u : State} (h : KeepsMachine s t) (k : KeepsMachine t u) : KeepsMachine s u := by
  obtain ⟨h1, h2, h3, h4, h5⟩ := h
  obtain ⟨k1, k2, k3, k4, k5⟩ := k
  refine ⟨k1.trans h1, k2.trans h2, ?_, k4.trans h4, k5.trans h5⟩
  unfold KeepsVideo at *
  rw [k3, h3]

theorem keepsHidden_trans {s t u : State} (h : KeepsHidden s t) (k : KeepsHidden t u) : KeepsHidden s u :=
  ⟨k.1.trans h.1, k.2.1.trans h.2.1, keepsMachine_trans h.2.2 k.2.2⟩

theorem changesRegisters_keeps {s t : State} (h : ChangesRegisters s t) :
    t.pc = s.pc ∧ KeepsHidden s t ∧ StoresNothing s t := by
  unfold ChangesRegisters at h
  rw [h]
  refine ⟨rfl, ⟨rfl, rfl, rfl, Iff.rfl, rfl, rfl, rfl⟩, fun a => ?_, rfl, rfl, rfl, rfl, rfl⟩
  exact stored_congr _ _ rfl rfl rfl rfl rfl rfl a

theorem busWrite_keepsHidden (a : Word) (v : Byte) (s : State) : KeepsHidden s (busWrite a v s) :=
  ⟨busWrite_nmiPending a v s, busWrite_irqPending a v s, busWrite_slots a v s, busWrite_bankHi a v s,
    busWrite_video a v s, busWrite_launch a v s, busWrite_frameDone a v s⟩

/-- An instruction that only changes registers and flags. -/
theorem ranWithoutStore_of (i : Instr) (xi : Bool) (regs : List Reg) (flags : List Flag) (s u : State)
    (hu : ChangesRegisters s u) (hr : KeepsRegs regs s u) (hf : KeepsStatus flags s u) :
    RanWithoutStore i xi regs flags s (charge i.baseCycles (modeRequestsExtraCycle i s) xi u) := by
  obtain ⟨h1, h2, h3⟩ := changesRegisters_keeps hu
  exact ⟨h1, ⟨hr, hf, h2⟩, h3, rfl⟩

/-- A store after a change of registers stores the same byte. -/
theorem storesByte_after {s u : State} (ea : Word) (v : Byte) (hu : ChangesRegisters s u) :
    StoresByte ea v s (busWrite ea v u) := by
  obtain ⟨-, h2, h3, h4, h5, h6, h7, h8⟩ := changesRegisters_keeps hu
  have ht : ∀ a, u.translate a = s.translate a := fun a => translate_congr s u h2.2.2.1 h2.2.2.2.1 a
  have hw := busWrite_storesByte ea v u
  refine ⟨fun c hc a ha => hw.1 c hc a ?_, fun a ha => ?_, fun d hd hne => ?_⟩
  · simpa only [State.sameCell, ht] using ha
  · rw [← h3 a]
    refine hw.2.1 a fun c hc => ?_
    simpa only [State.sameCell, ht] using ha c hc
  · have hd' : ∀ k, d = .bankHi k → u.bankHi ≠ .mirrored := by
      rw [h7]
      exact hd
    refine (hw.2.2 d hd' fun c hc => by rw [ht]; exact hne c hc).trans ?_
    cases d <;> simp only [State.readCell, h4, h5, h6, h7, h8]

/-- The charge of cycles is outside every frame. -/
theorem charge_keeps (regs : List Reg) (flags : List Flag) (w : List (Word × Byte)) (s t : State) (base : Nat)
    (xm xi : Bool) (hf : Frame regs flags s t) (hw : StoresBytes w s t) :
    Frame regs flags s (charge base xm xi t) ∧ StoresBytes w s (charge base xm xi t) :=
  ⟨hf, hw⟩

theorem busWrite_frame (ea : Word) (v : Byte) (regs : List Reg) (flags : List Flag) (s u : State)
    (hr : KeepsRegs regs s u) (hf : KeepsStatus flags s u) (hh : KeepsHidden s u) :
    Frame regs flags s (busWrite ea v u) := by
  have ha := busWrite_a ea v u
  have hx := busWrite_x ea v u
  have hy := busWrite_y ea v u
  have hs := busWrite_sp ea v u
  have hp := busWrite_p ea v u
  have hk := keepsHidden_trans hh (busWrite_keepsHidden ea v u)
  generalize busWrite ea v u = t at *
  refine ⟨fun r hr' => (?_ : t.reg r = u.reg r).trans (hr r hr'), ⟨fun f hf' => ?_, ?_⟩, hk⟩
  · cases r <;> assumption
  · exact (congrArg (getFlag f) hp).trans (hf.1 f hf')
  · exact (congrArg getBreak hp).trans hf.2

/-- An instruction that changes registers and flags and then stores one byte. -/
theorem ranStoring_of (i : Instr) (xm : Bool) (ea : Word) (v : Byte) (regs : List Reg) (flags : List Flag)
    (s u : State) (hu : ChangesRegisters s u) (hr : KeepsRegs regs s u) (hf : KeepsStatus flags s u) :
    RanStoring i ea v regs flags s (charge i.baseCycles xm false (busWrite ea v u)) := by
  obtain ⟨h1, h2, -⟩ := changesRegisters_keeps hu
  have hpc := (busWrite_pc ea v u).trans h1
  have hfr := busWrite_frame ea v regs flags s u hr hf h2
  have hst := storesByte_after ea v hu
  generalize busWrite ea v u = t at *
  obtain ⟨k1, k2⟩ := charge_keeps regs flags _ s t i.baseCycles xm false hfr hst
  exact ⟨hpc, k1, k2, by simp only [Charges, charge, Bool.and_false, Bool.toNat_false]⟩

/-! ### Several pushes -/

/-- Storing one more byte, in a cell of its own. -/
theorem storesBytes_snoc (w : List (Word × Byte)) (ea : Word) (v : Byte) (s t u : State) (h : StoresBytes w s t)
    (ht : ∀ a, t.translate a = s.translate a) (hm : t.bankHi = .mirrored ↔ s.bankHi = .mirrored)
    (hk : StoresByte ea v t u) (hne : ∀ c ∈ w, ¬ s.sameCell c.1 ea) : StoresBytes (w ++ [(ea, v)]) s u := by
  obtain ⟨h1, h2, h3⟩ := h
  obtain ⟨k1, k2, k3⟩ := hk
  have same : ∀ a b, t.sameCell a b ↔ s.sameCell a b := fun a b => by simp only [State.sameCell, ht]
  simp only [List.mem_singleton, forall_eq] at k1 k2 k3
  refine ⟨?_, ?_, ?_⟩
  · intro c hc a ha
    rcases List.mem_append.1 hc with hc | hc
    · rw [k2 a ?_]
      · exact h1 c hc a ha
      · rw [same]
        intro hae
        exact hne c hc ⟨ha.1.symm.trans hae.1, hae.2⟩
    · rw [List.mem_singleton] at hc
      subst hc
      exact k1 a ((same _ _).2 ha)
  · intro a ha
    rw [k2 a ((same _ _).not.2 (ha (ea, v) (List.mem_append_right _ (List.mem_singleton.2 rfl))))]
    exact h2 a fun c hc => ha c (List.mem_append_left _ hc)
  · intro d hd hn
    have hea := hn (ea, v) (List.mem_append_right _ (List.mem_singleton.2 rfl))
    rw [k3 d (fun k hk' => by rw [Ne, hm]; exact hd k hk') (by rw [ht]; exact hea)]
    exact h3 d hd fun c hc => hn c (List.mem_append_left _ hc)

/-- The stack page is in one slot, so two stack addresses whose pointers differ by 1 or 2 are different cells. -/
theorem stackAddress_cells (s : State) (p q : Byte) (h : p.toNat % 8 ≠ q.toNat % 8) :
    ¬ s.sameCell (stackAddress p) (stackAddress q) := by
  rintro ⟨he, hn⟩
  have hp := p.isLt
  have hq := q.isLt
  have page : ∀ r : Byte, stackAddress r &&& 0xE000 = 0 := by
    intro r
    have := r.isLt
    rw [top_clear_iff, toNat_stackAddress]
    omega
  simp only [State.translate, State.deviceAt, slotOf_stackAddress] at he hn
  generalize s.slots.get (0 : BitVec 4).toFin = d at he hn
  match d, he, hn with
  | none, _, hn => exact hn rfl
  | some .flat, he, _ =>
    simp only [Option.some.injEq, Cell.flat.injEq, toNat_stackAddress] at he
    omega
  | some .banked, he, _ =>
    simp only [bankedCell, page, if_true, Option.some.injEq, Cell.ram.injEq, toNat_ramIndex, toNat_stackAddress] at he
    omega
  | some .ppu, he, _ =>
    simp only [Option.some.injEq, Cell.reg.injEq] at he
    have := congrArg BitVec.toNat he
    rw [toNat_registerIndex, toNat_registerIndex, toNat_stackAddress, toNat_stackAddress] at this
    omega

end Sys2Proof.Machine
end

