-- ==== Sys2Proof/Laws/OpcodeMap.lean ====
section
/-! SUPPORT. What every entry of the opcode map builds: instructions whose bytes are the entry's opcode and the operand
bytes they were built from (R100, R101, R104). -/

namespace Sys2Proof

/-- R104: a row stands at an opcode byte: it builds instructions of that opcode, with the operand bytes given to it. -/
def OpcodeRow.standsAt (op : Byte) : OpcodeRow → Prop
  | .implied i => encode i = [op]
  | .oneByte make => ∀ b, encode (make b) = [op, b]
  | .twoBytes make => ∀ w, encode (make w) = [op, loByte w, hiByte w]

/-- Consecutive rows stand at consecutive opcode bytes, from number `k` on. -/
def rowsStandFrom : Nat → List OpcodeRow → Prop
  | _, [] => True
  | k, row :: rows => row.standsAt (BitVec.ofNat 8 k) ∧ rowsStandFrom (k + 1) rows

theorem standsAt_of_rowsStandFrom (k j : Nat) (rows : List OpcodeRow) (row : OpcodeRow) (h : rowsStandFrom k rows)
    (hj : rows[j]? = some row) : row.standsAt (BitVec.ofNat 8 (k + j)) := by
  induction rows generalizing k j with
  | nil => cases hj
  | cons r rows ih =>
    cases j with
    | zero =>
      cases hj
      exact h.1
    | succ j =>
      have := ih (k + 1) j h.2 hj
      rwa [Nat.add_assoc, Nat.add_comm 1 j] at this

theorem opcodeRow0_stands : rowsStandFrom 0 opcodeRow0 := by
  unfold opcodeRow0
  repeat' first | exact trivial | exact fun _ => rfl | exact rfl | refine And.intro ?_ ?_

theorem opcodeRow1_stands : rowsStandFrom 16 opcodeRow1 := by
  unfold opcodeRow1
  repeat' first | exact trivial | exact fun _ => rfl | exact rfl | refine And.intro ?_ ?_

theorem opcodeRow2_stands : rowsStandFrom 32 opcodeRow2 := by
  unfold opcodeRow2
  repeat' first | exact trivial | exact fun _ => rfl | exact rfl | refine And.intro ?_ ?_

theorem opcodeRow3_stands : rowsStandFrom 48 opcodeRow3 := by
  unfold opcodeRow3
  repeat' first | exact trivial | exact fun _ => rfl | exact rfl | refine And.intro ?_ ?_

theorem opcodeRow4_stands : rowsStandFrom 64 opcodeRow4 := by
  unfold opcodeRow4
  repeat' first | exact trivial | exact fun _ => rfl | exact rfl | refine And.intro ?_ ?_

theorem opcodeRow5_stands : rowsStandFrom 80 opcodeRow5 := by
  unfold opcodeRow5
  repeat' first | exact trivial | exact fun _ => rfl | exact rfl | refine And.intro ?_ ?_

theorem opcodeRow6_stands : rowsStandFrom 96 opcodeRow6 := by
  unfold opcodeRow6
  repeat' first | exact trivial | exact fun _ => rfl | exact rfl | refine And.intro ?_ ?_

theorem opcodeRow7_stands : rowsStandFrom 112 opcodeRow7 := by
  unfold opcodeRow7
  repeat' first | exact trivial | exact fun _ => rfl | exact rfl | refine And.intro ?_ ?_

theorem opcodeRow8_stands : rowsStandFrom 128 opcodeRow8 := by
  unfold opcodeRow8
  repeat' first | exact trivial | exact fun _ => rfl | exact rfl | refine And.intro ?_ ?_

theorem opcodeRow9_stands : rowsStandFrom 144 opcodeRow9 := by
  unfold opcodeRow9
  repeat' first | exact trivial | exact fun _ => rfl | exact rfl | refine And.intro ?_ ?_

theorem opcodeRowA_stands : rowsStandFrom 160 opcodeRowA := by
  unfold opcodeRowA
  repeat' first | exact trivial | exact fun _ => rfl | exact rfl | refine And.intro ?_ ?_

theorem opcodeRowB_stands : rowsStandFrom 176 opcodeRowB := by
  unfold opcodeRowB
  repeat' first | exact trivial | exact fun _ => rfl | exact rfl | refine And.intro ?_ ?_

theorem opcodeRowC_stands : rowsStandFrom 192 opcodeRowC := by
  unfold opcodeRowC
  repeat' first | exact trivial | exact fun _ => rfl | exact rfl | refine And.intro ?_ ?_

theorem opcodeRowD_stands : rowsStandFrom 208 opcodeRowD := by
  unfold opcodeRowD
  repeat' first | exact trivial | exact fun _ => rfl | exact rfl | refine And.intro ?_ ?_

theorem opcodeRowE_stands : rowsStandFrom 224 opcodeRowE := by
  unfold opcodeRowE
  repeat' first | exact trivial | exact fun _ => rfl | exact rfl | refine And.intro ?_ ?_

theorem opcodeRowF_stands : rowsStandFrom 240 opcodeRowF := by
  unfold opcodeRowF
  repeat' first | exact trivial | exact fun _ => rfl | exact rfl | refine And.intro ?_ ?_

/-- R104: the row found at an opcode byte stands there. -/
theorem rowOf_standsAt (op : Byte) (row : OpcodeRow) (h : rowOf op = some row) : row.standsAt op := by
  have hlt : op.toNat / 16 < 16 := by have := op.isLt; omega
  have hop : BitVec.ofNat 8 (16 * (op.toNat / 16) + op.toNat % 16) = op := by
    rw [Nat.div_add_mod]
    exact BitVec.eq_of_toNat_eq (by simp)
  have key : ∀ (n : Nat) (cells : List OpcodeRow), opcodeMatrix[n]? = some cells → rowsStandFrom (16 * n) cells := by
    intro n cells hc
    match n, hc with
    | 0, hc => cases hc; exact opcodeRow0_stands
    | 1, hc => cases hc; exact opcodeRow1_stands
    | 2, hc => cases hc; exact opcodeRow2_stands
    | 3, hc => cases hc; exact opcodeRow3_stands
    | 4, hc => cases hc; exact opcodeRow4_stands
    | 5, hc => cases hc; exact opcodeRow5_stands
    | 6, hc => cases hc; exact opcodeRow6_stands
    | 7, hc => cases hc; exact opcodeRow7_stands
    | 8, hc => cases hc; exact opcodeRow8_stands
    | 9, hc => cases hc; exact opcodeRow9_stands
    | 10, hc => cases hc; exact opcodeRowA_stands
    | 11, hc => cases hc; exact opcodeRowB_stands
    | 12, hc => cases hc; exact opcodeRowC_stands
    | 13, hc => cases hc; exact opcodeRowD_stands
    | 14, hc => cases hc; exact opcodeRowE_stands
    | 15, hc => cases hc; exact opcodeRowF_stands
  unfold rowOf at h
  split at h
  · rename_i cells hc
    have := standsAt_of_rowsStandFrom _ _ _ _ (key _ _ hc) h
    rwa [hop] at this
  · cases h

/-- R106: every opcode byte has a row. -/
theorem rowOf_isSome (op : Byte) : (rowOf op).isSome = true := by
  have key : ∀ op : Byte, (rowOf op).isSome = true := by decide
  exact key op

/-- R106, R109: an opcode byte with the operand bytes its format has decodes to the instruction of exactly those
bytes. -/
theorem decode_operands (op : Byte) (operands : List Byte) (h : operands.length = instrLength op - 1) :
    ∃ i, decode (op :: operands) = .ok (i, []) ∧ encode i = op :: operands := by
  obtain ⟨row, hr⟩ := Option.isSome_iff_exists.mp (rowOf_isSome op)
  have hs := rowOf_standsAt op row hr
  simp only [instrLength, hr] at h
  simp only [decode, hr]
  cases row with
  | implied j => match operands, h with | [], _ => exact ⟨_, rfl, hs⟩
  | oneByte make => match operands, h with | [b], _ => exact ⟨_, rfl, hs b⟩
  | twoBytes make =>
    match operands, h with
    | [b, c], _ => exact ⟨_, rfl, by rw [hs, loByte_joinBytes, hiByte_joinBytes]⟩

theorem instrLength_pos (op : Byte) : 1 ≤ instrLength op := by
  unfold instrLength
  split
  · rename_i row _
    cases row <;> simp [OpcodeRow.length]
  · exact Nat.le_refl 1

end Sys2Proof
end

