-- ==== Sys2Proof/Laws/PerInstr.lean ====
section
/-! SUPPORT. What holds of every instruction as syntax, one lemma per constructor. -/

namespace Sys2Proof.Laws.Encoding

/-- R104, R109: an instruction's opcode byte leads, in the opcode map, to the row that rebuilds the instruction from its
own operand bytes, and the row's length is the instruction's. -/
def Statement (i : Instr) : Prop :=
  ∃ row, rowOf i.opcode = some row ∧ row.length = i.length ∧
    match row, i.operand with
    | .implied j, none => j = i
    | .oneByte make, some o => ∃ b, o.bytes = [b] ∧ make b = i
    | .twoBytes make, some o => ∃ w, o.bytes = [loByte w, hiByte w] ∧ make w = i
    | _, _ => False

/-- The row of an instruction, from its opcode byte as a number. -/
theorem row_at {i : Instr} {op : Byte} {row : OpcodeRow} (h : i.opcode = op) (hr : rowOf op = some row) :
    rowOf i.opcode = some row := h ▸ hr

theorem brk : Statement .brk := ⟨.implied .brk, row_at (op := 0x00) rfl rfl, rfl, rfl⟩
theorem oraIzx (z : Byte) : Statement (.oraIzx z) := ⟨.oneByte .oraIzx, row_at (op := 0x01) rfl rfl, rfl, z, rfl, rfl⟩
theorem kil02 : Statement .kil02 := ⟨.implied .kil02, row_at (op := 0x02) rfl rfl, rfl, rfl⟩
theorem sloIzx (z : Byte) : Statement (.sloIzx z) := ⟨.oneByte .sloIzx, row_at (op := 0x03) rfl rfl, rfl, z, rfl, rfl⟩
theorem nopZp04 (z : Byte) : Statement (.nopZp04 z) := ⟨.oneByte .nopZp04, row_at (op := 0x04) rfl rfl, rfl, z, rfl, rfl⟩
theorem oraZp (z : Byte) : Statement (.oraZp z) := ⟨.oneByte .oraZp, row_at (op := 0x05) rfl rfl, rfl, z, rfl, rfl⟩
theorem aslZp (z : Byte) : Statement (.aslZp z) := ⟨.oneByte .aslZp, row_at (op := 0x06) rfl rfl, rfl, z, rfl, rfl⟩
theorem sloZp (z : Byte) : Statement (.sloZp z) := ⟨.oneByte .sloZp, row_at (op := 0x07) rfl rfl, rfl, z, rfl, rfl⟩
theorem php : Statement .php := ⟨.implied .php, row_at (op := 0x08) rfl rfl, rfl, rfl⟩
theorem oraImm (b : Byte) : Statement (.oraImm b) := ⟨.oneByte .oraImm, row_at (op := 0x09) rfl rfl, rfl, b, rfl, rfl⟩
theorem aslAcc : Statement .aslAcc := ⟨.implied .aslAcc, row_at (op := 0x0A) rfl rfl, rfl, rfl⟩
theorem ancImm0B (b : Byte) : Statement (.ancImm0B b) := ⟨.oneByte .ancImm0B, row_at (op := 0x0B) rfl rfl, rfl, b, rfl, rfl⟩
theorem nopAbs (w : Word) : Statement (.nopAbs w) := ⟨.twoBytes .nopAbs, row_at (op := 0x0C) rfl rfl, rfl, w, rfl, rfl⟩
theorem oraAbs (w : Word) : Statement (.oraAbs w) := ⟨.twoBytes .oraAbs, row_at (op := 0x0D) rfl rfl, rfl, w, rfl, rfl⟩
theorem aslAbs (w : Word) : Statement (.aslAbs w) := ⟨.twoBytes .aslAbs, row_at (op := 0x0E) rfl rfl, rfl, w, rfl, rfl⟩
theorem sloAbs (w : Word) : Statement (.sloAbs w) := ⟨.twoBytes .sloAbs, row_at (op := 0x0F) rfl rfl, rfl, w, rfl, rfl⟩
theorem bplRel (o : Byte) : Statement (.bplRel o) := ⟨.oneByte .bplRel, row_at (op := 0x10) rfl rfl, rfl, o, rfl, rfl⟩
theorem oraIzy (z : Byte) : Statement (.oraIzy z) := ⟨.oneByte .oraIzy, row_at (op := 0x11) rfl rfl, rfl, z, rfl, rfl⟩
theorem kil12 : Statement .kil12 := ⟨.implied .kil12, row_at (op := 0x12) rfl rfl, rfl, rfl⟩
theorem sloIzy (z : Byte) : Statement (.sloIzy z) := ⟨.oneByte .sloIzy, row_at (op := 0x13) rfl rfl, rfl, z, rfl, rfl⟩
theorem nopZpx14 (z : Byte) : Statement (.nopZpx14 z) := ⟨.oneByte .nopZpx14, row_at (op := 0x14) rfl rfl, rfl, z, rfl, rfl⟩
theorem oraZpx (z : Byte) : Statement (.oraZpx z) := ⟨.oneByte .oraZpx, row_at (op := 0x15) rfl rfl, rfl, z, rfl, rfl⟩
theorem aslZpx (z : Byte) : Statement (.aslZpx z) := ⟨.oneByte .aslZpx, row_at (op := 0x16) rfl rfl, rfl, z, rfl, rfl⟩
theorem sloZpx (z : Byte) : Statement (.sloZpx z) := ⟨.oneByte .sloZpx, row_at (op := 0x17) rfl rfl, rfl, z, rfl, rfl⟩
theorem clc : Statement .clc := ⟨.implied .clc, row_at (op := 0x18) rfl rfl, rfl, rfl⟩
theorem oraAby (w : Word) : Statement (.oraAby w) := ⟨.twoBytes .oraAby, row_at (op := 0x19) rfl rfl, rfl, w, rfl, rfl⟩
theorem nopImp1A : Statement .nopImp1A := ⟨.implied .nopImp1A, row_at (op := 0x1A) rfl rfl, rfl, rfl⟩
theorem sloAby (w : Word) : Statement (.sloAby w) := ⟨.twoBytes .sloAby, row_at (op := 0x1B) rfl rfl, rfl, w, rfl, rfl⟩
theorem nopAbx1C (w : Word) : Statement (.nopAbx1C w) := ⟨.twoBytes .nopAbx1C, row_at (op := 0x1C) rfl rfl, rfl, w, rfl, rfl⟩
theorem oraAbx (w : Word) : Statement (.oraAbx w) := ⟨.twoBytes .oraAbx, row_at (op := 0x1D) rfl rfl, rfl, w, rfl, rfl⟩
theorem aslAbx (w : Word) : Statement (.aslAbx w) := ⟨.twoBytes .aslAbx, row_at (op := 0x1E) rfl rfl, rfl, w, rfl, rfl⟩
theorem sloAbx (w : Word) : Statement (.sloAbx w) := ⟨.twoBytes .sloAbx, row_at (op := 0x1F) rfl rfl, rfl, w, rfl, rfl⟩
theorem jsrAbs (w : Word) : Statement (.jsrAbs w) := ⟨.twoBytes .jsrAbs, row_at (op := 0x20) rfl rfl, rfl, w, rfl, rfl⟩
theorem andIzx (z : Byte) : Statement (.andIzx z) := ⟨.oneByte .andIzx, row_at (op := 0x21) rfl rfl, rfl, z, rfl, rfl⟩
theorem kil22 : Statement .kil22 := ⟨.implied .kil22, row_at (op := 0x22) rfl rfl, rfl, rfl⟩
theorem rlaIzx (z : Byte) : Statement (.rlaIzx z) := ⟨.oneByte .rlaIzx, row_at (op := 0x23) rfl rfl, rfl, z, rfl, rfl⟩
theorem bitZp (z : Byte) : Statement (.bitZp z) := ⟨.oneByte .bitZp, row_at (op := 0x24) rfl rfl, rfl, z, rfl, rfl⟩
theorem andZp (z : Byte) : Statement (.andZp z) := ⟨.oneByte .andZp, row_at (op := 0x25) rfl rfl, rfl, z, rfl, rfl⟩
theorem rolZp (z : Byte) : Statement (.rolZp z) := ⟨.oneByte .rolZp, row_at (op := 0x26) rfl rfl, rfl, z, rfl, rfl⟩
theorem rlaZp (z : Byte) : Statement (.rlaZp z) := ⟨.oneByte .rlaZp, row_at (op := 0x27) rfl rfl, rfl, z, rfl, rfl⟩
theorem plp : Statement .plp := ⟨.implied .plp, row_at (op := 0x28) rfl rfl, rfl, rfl⟩
theorem andImm (b : Byte) : Statement (.andImm b) := ⟨.oneByte .andImm, row_at (op := 0x29) rfl rfl, rfl, b, rfl, rfl⟩
theorem rolAcc : Statement .rolAcc := ⟨.implied .rolAcc, row_at (op := 0x2A) rfl rfl, rfl, rfl⟩
theorem ancImm2B (b : Byte) : Statement (.ancImm2B b) := ⟨.oneByte .ancImm2B, row_at (op := 0x2B) rfl rfl, rfl, b, rfl, rfl⟩
theorem bitAbs (w : Word) : Statement (.bitAbs w) := ⟨.twoBytes .bitAbs, row_at (op := 0x2C) rfl rfl, rfl, w, rfl, rfl⟩
theorem andAbs (w : Word) : Statement (.andAbs w) := ⟨.twoBytes .andAbs, row_at (op := 0x2D) rfl rfl, rfl, w, rfl, rfl⟩
theorem rolAbs (w : Word) : Statement (.rolAbs w) := ⟨.twoBytes .rolAbs, row_at (op := 0x2E) rfl rfl, rfl, w, rfl, rfl⟩
theorem rlaAbs (w : Word) : Statement (.rlaAbs w) := ⟨.twoBytes .rlaAbs, row_at (op := 0x2F) rfl rfl, rfl, w, rfl, rfl⟩
theorem bmiRel (o : Byte) : Statement (.bmiRel o) := ⟨.oneByte .bmiRel, row_at (op := 0x30) rfl rfl, rfl, o, rfl, rfl⟩
theorem andIzy (z : Byte) : Statement (.andIzy z) := ⟨.oneByte .andIzy, row_at (op := 0x31) rfl rfl, rfl, z, rfl, rfl⟩
theorem kil32 : Statement .kil32 := ⟨.implied .kil32, row_at (op := 0x32) rfl rfl, rfl, rfl⟩
theorem rlaIzy (z : Byte) : Statement (.rlaIzy z) := ⟨.oneByte .rlaIzy, row_at (op := 0x33) rfl rfl, rfl, z, rfl, rfl⟩
theorem nopZpx34 (z : Byte) : Statement (.nopZpx34 z) := ⟨.oneByte .nopZpx34, row_at (op := 0x34) rfl rfl, rfl, z, rfl, rfl⟩
theorem andZpx (z : Byte) : Statement (.andZpx z) := ⟨.oneByte .andZpx, row_at (op := 0x35) rfl rfl, rfl, z, rfl, rfl⟩
theorem rolZpx (z : Byte) : Statement (.rolZpx z) := ⟨.oneByte .rolZpx, row_at (op := 0x36) rfl rfl, rfl, z, rfl, rfl⟩
theorem rlaZpx (z : Byte) : Statement (.rlaZpx z) := ⟨.oneByte .rlaZpx, row_at (op := 0x37) rfl rfl, rfl, z, rfl, rfl⟩
theorem sec : Statement .sec := ⟨.implied .sec, row_at (op := 0x38) rfl rfl, rfl, rfl⟩
theorem andAby (w : Word) : Statement (.andAby w) := ⟨.twoBytes .andAby, row_at (op := 0x39) rfl rfl, rfl, w, rfl, rfl⟩
theorem nopImp3A : Statement .nopImp3A := ⟨.implied .nopImp3A, row_at (op := 0x3A) rfl rfl, rfl, rfl⟩
theorem rlaAby (w : Word) : Statement (.rlaAby w) := ⟨.twoBytes .rlaAby, row_at (op := 0x3B) rfl rfl, rfl, w, rfl, rfl⟩
theorem nopAbx3C (w : Word) : Statement (.nopAbx3C w) := ⟨.twoBytes .nopAbx3C, row_at (op := 0x3C) rfl rfl, rfl, w, rfl, rfl⟩
theorem andAbx (w : Word) : Statement (.andAbx w) := ⟨.twoBytes .andAbx, row_at (op := 0x3D) rfl rfl, rfl, w, rfl, rfl⟩
theorem rolAbx (w : Word) : Statement (.rolAbx w) := ⟨.twoBytes .rolAbx, row_at (op := 0x3E) rfl rfl, rfl, w, rfl, rfl⟩
theorem rlaAbx (w : Word) : Statement (.rlaAbx w) := ⟨.twoBytes .rlaAbx, row_at (op := 0x3F) rfl rfl, rfl, w, rfl, rfl⟩
theorem rti : Statement .rti := ⟨.implied .rti, row_at (op := 0x40) rfl rfl, rfl, rfl⟩
theorem eorIzx (z : Byte) : Statement (.eorIzx z) := ⟨.oneByte .eorIzx, row_at (op := 0x41) rfl rfl, rfl, z, rfl, rfl⟩
theorem kil42 : Statement .kil42 := ⟨.implied .kil42, row_at (op := 0x42) rfl rfl, rfl, rfl⟩
theorem sreIzx (z : Byte) : Statement (.sreIzx z) := ⟨.oneByte .sreIzx, row_at (op := 0x43) rfl rfl, rfl, z, rfl, rfl⟩
theorem nopZp44 (z : Byte) : Statement (.nopZp44 z) := ⟨.oneByte .nopZp44, row_at (op := 0x44) rfl rfl, rfl, z, rfl, rfl⟩
theorem eorZp (z : Byte) : Statement (.eorZp z) := ⟨.oneByte .eorZp, row_at (op := 0x45) rfl rfl, rfl, z, rfl, rfl⟩
theorem lsrZp (z : Byte) : Statement (.lsrZp z) := ⟨.oneByte .lsrZp, row_at (op := 0x46) rfl rfl, rfl, z, rfl, rfl⟩
theorem sreZp (z : Byte) : Statement (.sreZp z) := ⟨.oneByte .sreZp, row_at (op := 0x47) rfl rfl, rfl, z, rfl, rfl⟩
theorem pha : Statement .pha := ⟨.implied .pha, row_at (op := 0x48) rfl rfl, rfl, rfl⟩
theorem eorImm (b : Byte) : Statement (.eorImm b) := ⟨.oneByte .eorImm, row_at (op := 0x49) rfl rfl, rfl, b, rfl, rfl⟩
theorem lsrAcc : Statement .lsrAcc := ⟨.implied .lsrAcc, row_at (op := 0x4A) rfl rfl, rfl, rfl⟩
theorem alrImm (b : Byte) : Statement (.alrImm b) := ⟨.oneByte .alrImm, row_at (op := 0x4B) rfl rfl, rfl, b, rfl, rfl⟩
theorem jmpAbs (w : Word) : Statement (.jmpAbs w) := ⟨.twoBytes .jmpAbs, row_at (op := 0x4C) rfl rfl, rfl, w, rfl, rfl⟩
theorem eorAbs (w : Word) : Statement (.eorAbs w) := ⟨.twoBytes .eorAbs, row_at (op := 0x4D) rfl rfl, rfl, w, rfl, rfl⟩
theorem lsrAbs (w : Word) : Statement (.lsrAbs w) := ⟨.twoBytes .lsrAbs, row_at (op := 0x4E) rfl rfl, rfl, w, rfl, rfl⟩
theorem sreAbs (w : Word) : Statement (.sreAbs w) := ⟨.twoBytes .sreAbs, row_at (op := 0x4F) rfl rfl, rfl, w, rfl, rfl⟩
theorem bvcRel (o : Byte) : Statement (.bvcRel o) := ⟨.oneByte .bvcRel, row_at (op := 0x50) rfl rfl, rfl, o, rfl, rfl⟩
theorem eorIzy (z : Byte) : Statement (.eorIzy z) := ⟨.oneByte .eorIzy, row_at (op := 0x51) rfl rfl, rfl, z, rfl, rfl⟩
theorem kil52 : Statement .kil52 := ⟨.implied .kil52, row_at (op := 0x52) rfl rfl, rfl, rfl⟩
theorem sreIzy (z : Byte) : Statement (.sreIzy z) := ⟨.oneByte .sreIzy, row_at (op := 0x53) rfl rfl, rfl, z, rfl, rfl⟩
theorem nopZpx54 (z : Byte) : Statement (.nopZpx54 z) := ⟨.oneByte .nopZpx54, row_at (op := 0x54) rfl rfl, rfl, z, rfl, rfl⟩
theorem eorZpx (z : Byte) : Statement (.eorZpx z) := ⟨.oneByte .eorZpx, row_at (op := 0x55) rfl rfl, rfl, z, rfl, rfl⟩
theorem lsrZpx (z : Byte) : Statement (.lsrZpx z) := ⟨.oneByte .lsrZpx, row_at (op := 0x56) rfl rfl, rfl, z, rfl, rfl⟩
theorem sreZpx (z : Byte) : Statement (.sreZpx z) := ⟨.oneByte .sreZpx, row_at (op := 0x57) rfl rfl, rfl, z, rfl, rfl⟩
theorem cli : Statement .cli := ⟨.implied .cli, row_at (op := 0x58) rfl rfl, rfl, rfl⟩
theorem eorAby (w : Word) : Statement (.eorAby w) := ⟨.twoBytes .eorAby, row_at (op := 0x59) rfl rfl, rfl, w, rfl, rfl⟩
theorem nopImp5A : Statement .nopImp5A := ⟨.implied .nopImp5A, row_at (op := 0x5A) rfl rfl, rfl, rfl⟩
theorem sreAby (w : Word) : Statement (.sreAby w) := ⟨.twoBytes .sreAby, row_at (op := 0x5B) rfl rfl, rfl, w, rfl, rfl⟩
theorem nopAbx5C (w : Word) : Statement (.nopAbx5C w) := ⟨.twoBytes .nopAbx5C, row_at (op := 0x5C) rfl rfl, rfl, w, rfl, rfl⟩
theorem eorAbx (w : Word) : Statement (.eorAbx w) := ⟨.twoBytes .eorAbx, row_at (op := 0x5D) rfl rfl, rfl, w, rfl, rfl⟩
theorem lsrAbx (w : Word) : Statement (.lsrAbx w) := ⟨.twoBytes .lsrAbx, row_at (op := 0x5E) rfl rfl, rfl, w, rfl, rfl⟩
theorem sreAbx (w : Word) : Statement (.sreAbx w) := ⟨.twoBytes .sreAbx, row_at (op := 0x5F) rfl rfl, rfl, w, rfl, rfl⟩
theorem rts : Statement .rts := ⟨.implied .rts, row_at (op := 0x60) rfl rfl, rfl, rfl⟩
theorem adcIzx (z : Byte) : Statement (.adcIzx z) := ⟨.oneByte .adcIzx, row_at (op := 0x61) rfl rfl, rfl, z, rfl, rfl⟩
theorem kil62 : Statement .kil62 := ⟨.implied .kil62, row_at (op := 0x62) rfl rfl, rfl, rfl⟩
theorem rraIzx (z : Byte) : Statement (.rraIzx z) := ⟨.oneByte .rraIzx, row_at (op := 0x63) rfl rfl, rfl, z, rfl, rfl⟩
theorem nopZp64 (z : Byte) : Statement (.nopZp64 z) := ⟨.oneByte .nopZp64, row_at (op := 0x64) rfl rfl, rfl, z, rfl, rfl⟩
theorem adcZp (z : Byte) : Statement (.adcZp z) := ⟨.oneByte .adcZp, row_at (op := 0x65) rfl rfl, rfl, z, rfl, rfl⟩
theorem rorZp (z : Byte) : Statement (.rorZp z) := ⟨.oneByte .rorZp, row_at (op := 0x66) rfl rfl, rfl, z, rfl, rfl⟩
theorem rraZp (z : Byte) : Statement (.rraZp z) := ⟨.oneByte .rraZp, row_at (op := 0x67) rfl rfl, rfl, z, rfl, rfl⟩
theorem pla : Statement .pla := ⟨.implied .pla, row_at (op := 0x68) rfl rfl, rfl, rfl⟩
theorem adcImm (b : Byte) : Statement (.adcImm b) := ⟨.oneByte .adcImm, row_at (op := 0x69) rfl rfl, rfl, b, rfl, rfl⟩
theorem rorAcc : Statement .rorAcc := ⟨.implied .rorAcc, row_at (op := 0x6A) rfl rfl, rfl, rfl⟩
theorem arrImm (b : Byte) : Statement (.arrImm b) := ⟨.oneByte .arrImm, row_at (op := 0x6B) rfl rfl, rfl, b, rfl, rfl⟩
theorem jmpInd (w : Word) : Statement (.jmpInd w) := ⟨.twoBytes .jmpInd, row_at (op := 0x6C) rfl rfl, rfl, w, rfl, rfl⟩
theorem adcAbs (w : Word) : Statement (.adcAbs w) := ⟨.twoBytes .adcAbs, row_at (op := 0x6D) rfl rfl, rfl, w, rfl, rfl⟩
theorem rorAbs (w : Word) : Statement (.rorAbs w) := ⟨.twoBytes .rorAbs, row_at (op := 0x6E) rfl rfl, rfl, w, rfl, rfl⟩
theorem rraAbs (w : Word) : Statement (.rraAbs w) := ⟨.twoBytes .rraAbs, row_at (op := 0x6F) rfl rfl, rfl, w, rfl, rfl⟩
theorem bvsRel (o : Byte) : Statement (.bvsRel o) := ⟨.oneByte .bvsRel, row_at (op := 0x70) rfl rfl, rfl, o, rfl, rfl⟩
theorem adcIzy (z : Byte) : Statement (.adcIzy z) := ⟨.oneByte .adcIzy, row_at (op := 0x71) rfl rfl, rfl, z, rfl, rfl⟩
theorem kil72 : Statement .kil72 := ⟨.implied .kil72, row_at (op := 0x72) rfl rfl, rfl, rfl⟩
theorem rraIzy (z : Byte) : Statement (.rraIzy z) := ⟨.oneByte .rraIzy, row_at (op := 0x73) rfl rfl, rfl, z, rfl, rfl⟩
theorem nopZpx74 (z : Byte) : Statement (.nopZpx74 z) := ⟨.oneByte .nopZpx74, row_at (op := 0x74) rfl rfl, rfl, z, rfl, rfl⟩
theorem adcZpx (z : Byte) : Statement (.adcZpx z) := ⟨.oneByte .adcZpx, row_at (op := 0x75) rfl rfl, rfl, z, rfl, rfl⟩
theorem rorZpx (z : Byte) : Statement (.rorZpx z) := ⟨.oneByte .rorZpx, row_at (op := 0x76) rfl rfl, rfl, z, rfl, rfl⟩
theorem rraZpx (z : Byte) : Statement (.rraZpx z) := ⟨.oneByte .rraZpx, row_at (op := 0x77) rfl rfl, rfl, z, rfl, rfl⟩
theorem sei : Statement .sei := ⟨.implied .sei, row_at (op := 0x78) rfl rfl, rfl, rfl⟩
theorem adcAby (w : Word) : Statement (.adcAby w) := ⟨.twoBytes .adcAby, row_at (op := 0x79) rfl rfl, rfl, w, rfl, rfl⟩
theorem nopImp7A : Statement .nopImp7A := ⟨.implied .nopImp7A, row_at (op := 0x7A) rfl rfl, rfl, rfl⟩
theorem rraAby (w : Word) : Statement (.rraAby w) := ⟨.twoBytes .rraAby, row_at (op := 0x7B) rfl rfl, rfl, w, rfl, rfl⟩
theorem nopAbx7C (w : Word) : Statement (.nopAbx7C w) := ⟨.twoBytes .nopAbx7C, row_at (op := 0x7C) rfl rfl, rfl, w, rfl, rfl⟩
theorem adcAbx (w : Word) : Statement (.adcAbx w) := ⟨.twoBytes .adcAbx, row_at (op := 0x7D) rfl rfl, rfl, w, rfl, rfl⟩
theorem rorAbx (w : Word) : Statement (.rorAbx w) := ⟨.twoBytes .rorAbx, row_at (op := 0x7E) rfl rfl, rfl, w, rfl, rfl⟩
theorem rraAbx (w : Word) : Statement (.rraAbx w) := ⟨.twoBytes .rraAbx, row_at (op := 0x7F) rfl rfl, rfl, w, rfl, rfl⟩
theorem nopImm80 (b : Byte) : Statement (.nopImm80 b) := ⟨.oneByte .nopImm80, row_at (op := 0x80) rfl rfl, rfl, b, rfl, rfl⟩
theorem staIzx (z : Byte) : Statement (.staIzx z) := ⟨.oneByte .staIzx, row_at (op := 0x81) rfl rfl, rfl, z, rfl, rfl⟩
theorem nopImm82 (b : Byte) : Statement (.nopImm82 b) := ⟨.oneByte .nopImm82, row_at (op := 0x82) rfl rfl, rfl, b, rfl, rfl⟩
theorem saxIzx (z : Byte) : Statement (.saxIzx z) := ⟨.oneByte .saxIzx, row_at (op := 0x83) rfl rfl, rfl, z, rfl, rfl⟩
theorem styZp (z : Byte) : Statement (.styZp z) := ⟨.oneByte .styZp, row_at (op := 0x84) rfl rfl, rfl, z, rfl, rfl⟩
theorem staZp (z : Byte) : Statement (.staZp z) := ⟨.oneByte .staZp, row_at (op := 0x85) rfl rfl, rfl, z, rfl, rfl⟩
theorem stxZp (z : Byte) : Statement (.stxZp z) := ⟨.oneByte .stxZp, row_at (op := 0x86) rfl rfl, rfl, z, rfl, rfl⟩
theorem saxZp (z : Byte) : Statement (.saxZp z) := ⟨.oneByte .saxZp, row_at (op := 0x87) rfl rfl, rfl, z, rfl, rfl⟩
theorem dey : Statement .dey := ⟨.implied .dey, row_at (op := 0x88) rfl rfl, rfl, rfl⟩
theorem nopImm89 (b : Byte) : Statement (.nopImm89 b) := ⟨.oneByte .nopImm89, row_at (op := 0x89) rfl rfl, rfl, b, rfl, rfl⟩
theorem txa : Statement .txa := ⟨.implied .txa, row_at (op := 0x8A) rfl rfl, rfl, rfl⟩
theorem xaaImm (b : Byte) : Statement (.xaaImm b) := ⟨.oneByte .xaaImm, row_at (op := 0x8B) rfl rfl, rfl, b, rfl, rfl⟩
theorem styAbs (w : Word) : Statement (.styAbs w) := ⟨.twoBytes .styAbs, row_at (op := 0x8C) rfl rfl, rfl, w, rfl, rfl⟩
theorem staAbs (w : Word) : Statement (.staAbs w) := ⟨.twoBytes .staAbs, row_at (op := 0x8D) rfl rfl, rfl, w, rfl, rfl⟩
theorem stxAbs (w : Word) : Statement (.stxAbs w) := ⟨.twoBytes .stxAbs, row_at (op := 0x8E) rfl rfl, rfl, w, rfl, rfl⟩
theorem saxAbs (w : Word) : Statement (.saxAbs w) := ⟨.twoBytes .saxAbs, row_at (op := 0x8F) rfl rfl, rfl, w, rfl, rfl⟩
theorem bccRel (o : Byte) : Statement (.bccRel o) := ⟨.oneByte .bccRel, row_at (op := 0x90) rfl rfl, rfl, o, rfl, rfl⟩
theorem staIzy (z : Byte) : Statement (.staIzy z) := ⟨.oneByte .staIzy, row_at (op := 0x91) rfl rfl, rfl, z, rfl, rfl⟩
theorem kil92 : Statement .kil92 := ⟨.implied .kil92, row_at (op := 0x92) rfl rfl, rfl, rfl⟩
theorem ahxIzy (z : Byte) : Statement (.ahxIzy z) := ⟨.oneByte .ahxIzy, row_at (op := 0x93) rfl rfl, rfl, z, rfl, rfl⟩
theorem styZpx (z : Byte) : Statement (.styZpx z) := ⟨.oneByte .styZpx, row_at (op := 0x94) rfl rfl, rfl, z, rfl, rfl⟩
theorem staZpx (z : Byte) : Statement (.staZpx z) := ⟨.oneByte .staZpx, row_at (op := 0x95) rfl rfl, rfl, z, rfl, rfl⟩
theorem stxZpy (z : Byte) : Statement (.stxZpy z) := ⟨.oneByte .stxZpy, row_at (op := 0x96) rfl rfl, rfl, z, rfl, rfl⟩
theorem saxZpy (z : Byte) : Statement (.saxZpy z) := ⟨.oneByte .saxZpy, row_at (op := 0x97) rfl rfl, rfl, z, rfl, rfl⟩
theorem tya : Statement .tya := ⟨.implied .tya, row_at (op := 0x98) rfl rfl, rfl, rfl⟩
theorem staAby (w : Word) : Statement (.staAby w) := ⟨.twoBytes .staAby, row_at (op := 0x99) rfl rfl, rfl, w, rfl, rfl⟩
theorem txs : Statement .txs := ⟨.implied .txs, row_at (op := 0x9A) rfl rfl, rfl, rfl⟩
theorem tasAby (w : Word) : Statement (.tasAby w) := ⟨.twoBytes .tasAby, row_at (op := 0x9B) rfl rfl, rfl, w, rfl, rfl⟩
theorem shyAbx (w : Word) : Statement (.shyAbx w) := ⟨.twoBytes .shyAbx, row_at (op := 0x9C) rfl rfl, rfl, w, rfl, rfl⟩
theorem staAbx (w : Word) : Statement (.staAbx w) := ⟨.twoBytes .staAbx, row_at (op := 0x9D) rfl rfl, rfl, w, rfl, rfl⟩
theorem shxAby (w : Word) : Statement (.shxAby w) := ⟨.twoBytes .shxAby, row_at (op := 0x9E) rfl rfl, rfl, w, rfl, rfl⟩
theorem ahxAby (w : Word) : Statement (.ahxAby w) := ⟨.twoBytes .ahxAby, row_at (op := 0x9F) rfl rfl, rfl, w, rfl, rfl⟩
theorem ldyImm (b : Byte) : Statement (.ldyImm b) := ⟨.oneByte .ldyImm, row_at (op := 0xA0) rfl rfl, rfl, b, rfl, rfl⟩
theorem ldaIzx (z : Byte) : Statement (.ldaIzx z) := ⟨.oneByte .ldaIzx, row_at (op := 0xA1) rfl rfl, rfl, z, rfl, rfl⟩
theorem ldxImm (b : Byte) : Statement (.ldxImm b) := ⟨.oneByte .ldxImm, row_at (op := 0xA2) rfl rfl, rfl, b, rfl, rfl⟩
theorem laxIzx (z : Byte) : Statement (.laxIzx z) := ⟨.oneByte .laxIzx, row_at (op := 0xA3) rfl rfl, rfl, z, rfl, rfl⟩
theorem ldyZp (z : Byte) : Statement (.ldyZp z) := ⟨.oneByte .ldyZp, row_at (op := 0xA4) rfl rfl, rfl, z, rfl, rfl⟩
theorem ldaZp (z : Byte) : Statement (.ldaZp z) := ⟨.oneByte .ldaZp, row_at (op := 0xA5) rfl rfl, rfl, z, rfl, rfl⟩
theorem ldxZp (z : Byte) : Statement (.ldxZp z) := ⟨.oneByte .ldxZp, row_at (op := 0xA6) rfl rfl, rfl, z, rfl, rfl⟩
theorem laxZp (z : Byte) : Statement (.laxZp z) := ⟨.oneByte .laxZp, row_at (op := 0xA7) rfl rfl, rfl, z, rfl, rfl⟩
theorem tay : Statement .tay := ⟨.implied .tay, row_at (op := 0xA8) rfl rfl, rfl, rfl⟩
theorem ldaImm (b : Byte) : Statement (.ldaImm b) := ⟨.oneByte .ldaImm, row_at (op := 0xA9) rfl rfl, rfl, b, rfl, rfl⟩
theorem tax : Statement .tax := ⟨.implied .tax, row_at (op := 0xAA) rfl rfl, rfl, rfl⟩
theorem laxImm (b : Byte) : Statement (.laxImm b) := ⟨.oneByte .laxImm, row_at (op := 0xAB) rfl rfl, rfl, b, rfl, rfl⟩
theorem ldyAbs (w : Word) : Statement (.ldyAbs w) := ⟨.twoBytes .ldyAbs, row_at (op := 0xAC) rfl rfl, rfl, w, rfl, rfl⟩
theorem ldaAbs (w : Word) : Statement (.ldaAbs w) := ⟨.twoBytes .ldaAbs, row_at (op := 0xAD) rfl rfl, rfl, w, rfl, rfl⟩
theorem ldxAbs (w : Word) : Statement (.ldxAbs w) := ⟨.twoBytes .ldxAbs, row_at (op := 0xAE) rfl rfl, rfl, w, rfl, rfl⟩
theorem laxAbs (w : Word) : Statement (.laxAbs w) := ⟨.twoBytes .laxAbs, row_at (op := 0xAF) rfl rfl, rfl, w, rfl, rfl⟩
theorem bcsRel (o : Byte) : Statement (.bcsRel o) := ⟨.oneByte .bcsRel, row_at (op := 0xB0) rfl rfl, rfl, o, rfl, rfl⟩
theorem ldaIzy (z : Byte) : Statement (.ldaIzy z) := ⟨.oneByte .ldaIzy, row_at (op := 0xB1) rfl rfl, rfl, z, rfl, rfl⟩
theorem kilB2 : Statement .kilB2 := ⟨.implied .kilB2, row_at (op := 0xB2) rfl rfl, rfl, rfl⟩
theorem laxIzy (z : Byte) : Statement (.laxIzy z) := ⟨.oneByte .laxIzy, row_at (op := 0xB3) rfl rfl, rfl, z, rfl, rfl⟩
theorem ldyZpx (z : Byte) : Statement (.ldyZpx z) := ⟨.oneByte .ldyZpx, row_at (op := 0xB4) rfl rfl, rfl, z, rfl, rfl⟩
theorem ldaZpx (z : Byte) : Statement (.ldaZpx z) := ⟨.oneByte .ldaZpx, row_at (op := 0xB5) rfl rfl, rfl, z, rfl, rfl⟩
theorem ldxZpy (z : Byte) : Statement (.ldxZpy z) := ⟨.oneByte .ldxZpy, row_at (op := 0xB6) rfl rfl, rfl, z, rfl, rfl⟩
theorem laxZpy (z : Byte) : Statement (.laxZpy z) := ⟨.oneByte .laxZpy, row_at (op := 0xB7) rfl rfl, rfl, z, rfl, rfl⟩
theorem clv : Statement .clv := ⟨.implied .clv, row_at (op := 0xB8) rfl rfl, rfl, rfl⟩
theorem ldaAby (w : Word) : Statement (.ldaAby w) := ⟨.twoBytes .ldaAby, row_at (op := 0xB9) rfl rfl, rfl, w, rfl, rfl⟩
theorem tsx : Statement .tsx := ⟨.implied .tsx, row_at (op := 0xBA) rfl rfl, rfl, rfl⟩
theorem lasAby (w : Word) : Statement (.lasAby w) := ⟨.twoBytes .lasAby, row_at (op := 0xBB) rfl rfl, rfl, w, rfl, rfl⟩
theorem ldyAbx (w : Word) : Statement (.ldyAbx w) := ⟨.twoBytes .ldyAbx, row_at (op := 0xBC) rfl rfl, rfl, w, rfl, rfl⟩
theorem ldaAbx (w : Word) : Statement (.ldaAbx w) := ⟨.twoBytes .ldaAbx, row_at (op := 0xBD) rfl rfl, rfl, w, rfl, rfl⟩
theorem ldxAby (w : Word) : Statement (.ldxAby w) := ⟨.twoBytes .ldxAby, row_at (op := 0xBE) rfl rfl, rfl, w, rfl, rfl⟩
theorem laxAby (w : Word) : Statement (.laxAby w) := ⟨.twoBytes .laxAby, row_at (op := 0xBF) rfl rfl, rfl, w, rfl, rfl⟩
theorem cpyImm (b : Byte) : Statement (.cpyImm b) := ⟨.oneByte .cpyImm, row_at (op := 0xC0) rfl rfl, rfl, b, rfl, rfl⟩
theorem cmpIzx (z : Byte) : Statement (.cmpIzx z) := ⟨.oneByte .cmpIzx, row_at (op := 0xC1) rfl rfl, rfl, z, rfl, rfl⟩
theorem nopImmC2 (b : Byte) : Statement (.nopImmC2 b) := ⟨.oneByte .nopImmC2, row_at (op := 0xC2) rfl rfl, rfl, b, rfl, rfl⟩
theorem dcpIzx (z : Byte) : Statement (.dcpIzx z) := ⟨.oneByte .dcpIzx, row_at (op := 0xC3) rfl rfl, rfl, z, rfl, rfl⟩
theorem cpyZp (z : Byte) : Statement (.cpyZp z) := ⟨.oneByte .cpyZp, row_at (op := 0xC4) rfl rfl, rfl, z, rfl, rfl⟩
theorem cmpZp (z : Byte) : Statement (.cmpZp z) := ⟨.oneByte .cmpZp, row_at (op := 0xC5) rfl rfl, rfl, z, rfl, rfl⟩
theorem decZp (z : Byte) : Statement (.decZp z) := ⟨.oneByte .decZp, row_at (op := 0xC6) rfl rfl, rfl, z, rfl, rfl⟩
theorem dcpZp (z : Byte) : Statement (.dcpZp z) := ⟨.oneByte .dcpZp, row_at (op := 0xC7) rfl rfl, rfl, z, rfl, rfl⟩
theorem iny : Statement .iny := ⟨.implied .iny, row_at (op := 0xC8) rfl rfl, rfl, rfl⟩
theorem cmpImm (b : Byte) : Statement (.cmpImm b) := ⟨.oneByte .cmpImm, row_at (op := 0xC9) rfl rfl, rfl, b, rfl, rfl⟩
theorem dex : Statement .dex := ⟨.implied .dex, row_at (op := 0xCA) rfl rfl, rfl, rfl⟩
theorem axsImm (b : Byte) : Statement (.axsImm b) := ⟨.oneByte .axsImm, row_at (op := 0xCB) rfl rfl, rfl, b, rfl, rfl⟩
theorem cpyAbs (w : Word) : Statement (.cpyAbs w) := ⟨.twoBytes .cpyAbs, row_at (op := 0xCC) rfl rfl, rfl, w, rfl, rfl⟩
theorem cmpAbs (w : Word) : Statement (.cmpAbs w) := ⟨.twoBytes .cmpAbs, row_at (op := 0xCD) rfl rfl, rfl, w, rfl, rfl⟩
theorem decAbs (w : Word) : Statement (.decAbs w) := ⟨.twoBytes .decAbs, row_at (op := 0xCE) rfl rfl, rfl, w, rfl, rfl⟩
theorem dcpAbs (w : Word) : Statement (.dcpAbs w) := ⟨.twoBytes .dcpAbs, row_at (op := 0xCF) rfl rfl, rfl, w, rfl, rfl⟩
theorem bneRel (o : Byte) : Statement (.bneRel o) := ⟨.oneByte .bneRel, row_at (op := 0xD0) rfl rfl, rfl, o, rfl, rfl⟩
theorem cmpIzy (z : Byte) : Statement (.cmpIzy z) := ⟨.oneByte .cmpIzy, row_at (op := 0xD1) rfl rfl, rfl, z, rfl, rfl⟩
theorem kilD2 : Statement .kilD2 := ⟨.implied .kilD2, row_at (op := 0xD2) rfl rfl, rfl, rfl⟩
theorem dcpIzy (z : Byte) : Statement (.dcpIzy z) := ⟨.oneByte .dcpIzy, row_at (op := 0xD3) rfl rfl, rfl, z, rfl, rfl⟩
theorem nopZpxD4 (z : Byte) : Statement (.nopZpxD4 z) := ⟨.oneByte .nopZpxD4, row_at (op := 0xD4) rfl rfl, rfl, z, rfl, rfl⟩
theorem cmpZpx (z : Byte) : Statement (.cmpZpx z) := ⟨.oneByte .cmpZpx, row_at (op := 0xD5) rfl rfl, rfl, z, rfl, rfl⟩
theorem decZpx (z : Byte) : Statement (.decZpx z) := ⟨.oneByte .decZpx, row_at (op := 0xD6) rfl rfl, rfl, z, rfl, rfl⟩
theorem dcpZpx (z : Byte) : Statement (.dcpZpx z) := ⟨.oneByte .dcpZpx, row_at (op := 0xD7) rfl rfl, rfl, z, rfl, rfl⟩
theorem cld : Statement .cld := ⟨.implied .cld, row_at (op := 0xD8) rfl rfl, rfl, rfl⟩
theorem cmpAby (w : Word) : Statement (.cmpAby w) := ⟨.twoBytes .cmpAby, row_at (op := 0xD9) rfl rfl, rfl, w, rfl, rfl⟩
theorem nopImpDA : Statement .nopImpDA := ⟨.implied .nopImpDA, row_at (op := 0xDA) rfl rfl, rfl, rfl⟩
theorem dcpAby (w : Word) : Statement (.dcpAby w) := ⟨.twoBytes .dcpAby, row_at (op := 0xDB) rfl rfl, rfl, w, rfl, rfl⟩
theorem nopAbxDC (w : Word) : Statement (.nopAbxDC w) := ⟨.twoBytes .nopAbxDC, row_at (op := 0xDC) rfl rfl, rfl, w, rfl, rfl⟩
theorem cmpAbx (w : Word) : Statement (.cmpAbx w) := ⟨.twoBytes .cmpAbx, row_at (op := 0xDD) rfl rfl, rfl, w, rfl, rfl⟩
theorem decAbx (w : Word) : Statement (.decAbx w) := ⟨.twoBytes .decAbx, row_at (op := 0xDE) rfl rfl, rfl, w, rfl, rfl⟩
theorem dcpAbx (w : Word) : Statement (.dcpAbx w) := ⟨.twoBytes .dcpAbx, row_at (op := 0xDF) rfl rfl, rfl, w, rfl, rfl⟩
theorem cpxImm (b : Byte) : Statement (.cpxImm b) := ⟨.oneByte .cpxImm, row_at (op := 0xE0) rfl rfl, rfl, b, rfl, rfl⟩
theorem sbcIzx (z : Byte) : Statement (.sbcIzx z) := ⟨.oneByte .sbcIzx, row_at (op := 0xE1) rfl rfl, rfl, z, rfl, rfl⟩
theorem nopImmE2 (b : Byte) : Statement (.nopImmE2 b) := ⟨.oneByte .nopImmE2, row_at (op := 0xE2) rfl rfl, rfl, b, rfl, rfl⟩
theorem iscIzx (z : Byte) : Statement (.iscIzx z) := ⟨.oneByte .iscIzx, row_at (op := 0xE3) rfl rfl, rfl, z, rfl, rfl⟩
theorem cpxZp (z : Byte) : Statement (.cpxZp z) := ⟨.oneByte .cpxZp, row_at (op := 0xE4) rfl rfl, rfl, z, rfl, rfl⟩
theorem sbcZp (z : Byte) : Statement (.sbcZp z) := ⟨.oneByte .sbcZp, row_at (op := 0xE5) rfl rfl, rfl, z, rfl, rfl⟩
theorem incZp (z : Byte) : Statement (.incZp z) := ⟨.oneByte .incZp, row_at (op := 0xE6) rfl rfl, rfl, z, rfl, rfl⟩
theorem iscZp (z : Byte) : Statement (.iscZp z) := ⟨.oneByte .iscZp, row_at (op := 0xE7) rfl rfl, rfl, z, rfl, rfl⟩
theorem inx : Statement .inx := ⟨.implied .inx, row_at (op := 0xE8) rfl rfl, rfl, rfl⟩
theorem sbcImm (b : Byte) : Statement (.sbcImm b) := ⟨.oneByte .sbcImm, row_at (op := 0xE9) rfl rfl, rfl, b, rfl, rfl⟩
theorem nop : Statement .nop := ⟨.implied .nop, row_at (op := 0xEA) rfl rfl, rfl, rfl⟩
theorem sbcImmEB (b : Byte) : Statement (.sbcImmEB b) := ⟨.oneByte .sbcImmEB, row_at (op := 0xEB) rfl rfl, rfl, b, rfl, rfl⟩
theorem cpxAbs (w : Word) : Statement (.cpxAbs w) := ⟨.twoBytes .cpxAbs, row_at (op := 0xEC) rfl rfl, rfl, w, rfl, rfl⟩
theorem sbcAbs (w : Word) : Statement (.sbcAbs w) := ⟨.twoBytes .sbcAbs, row_at (op := 0xED) rfl rfl, rfl, w, rfl, rfl⟩
theorem incAbs (w : Word) : Statement (.incAbs w) := ⟨.twoBytes .incAbs, row_at (op := 0xEE) rfl rfl, rfl, w, rfl, rfl⟩
theorem iscAbs (w : Word) : Statement (.iscAbs w) := ⟨.twoBytes .iscAbs, row_at (op := 0xEF) rfl rfl, rfl, w, rfl, rfl⟩
theorem beqRel (o : Byte) : Statement (.beqRel o) := ⟨.oneByte .beqRel, row_at (op := 0xF0) rfl rfl, rfl, o, rfl, rfl⟩
theorem sbcIzy (z : Byte) : Statement (.sbcIzy z) := ⟨.oneByte .sbcIzy, row_at (op := 0xF1) rfl rfl, rfl, z, rfl, rfl⟩
theorem kilF2 : Statement .kilF2 := ⟨.implied .kilF2, row_at (op := 0xF2) rfl rfl, rfl, rfl⟩
theorem iscIzy (z : Byte) : Statement (.iscIzy z) := ⟨.oneByte .iscIzy, row_at (op := 0xF3) rfl rfl, rfl, z, rfl, rfl⟩
theorem nopZpxF4 (z : Byte) : Statement (.nopZpxF4 z) := ⟨.oneByte .nopZpxF4, row_at (op := 0xF4) rfl rfl, rfl, z, rfl, rfl⟩
theorem sbcZpx (z : Byte) : Statement (.sbcZpx z) := ⟨.oneByte .sbcZpx, row_at (op := 0xF5) rfl rfl, rfl, z, rfl, rfl⟩
theorem incZpx (z : Byte) : Statement (.incZpx z) := ⟨.oneByte .incZpx, row_at (op := 0xF6) rfl rfl, rfl, z, rfl, rfl⟩
theorem iscZpx (z : Byte) : Statement (.iscZpx z) := ⟨.oneByte .iscZpx, row_at (op := 0xF7) rfl rfl, rfl, z, rfl, rfl⟩
theorem sed : Statement .sed := ⟨.implied .sed, row_at (op := 0xF8) rfl rfl, rfl, rfl⟩
theorem sbcAby (w : Word) : Statement (.sbcAby w) := ⟨.twoBytes .sbcAby, row_at (op := 0xF9) rfl rfl, rfl, w, rfl, rfl⟩
theorem nopImpFA : Statement .nopImpFA := ⟨.implied .nopImpFA, row_at (op := 0xFA) rfl rfl, rfl, rfl⟩
theorem iscAby (w : Word) : Statement (.iscAby w) := ⟨.twoBytes .iscAby, row_at (op := 0xFB) rfl rfl, rfl, w, rfl, rfl⟩
theorem nopAbxFC (w : Word) : Statement (.nopAbxFC w) := ⟨.twoBytes .nopAbxFC, row_at (op := 0xFC) rfl rfl, rfl, w, rfl, rfl⟩
theorem sbcAbx (w : Word) : Statement (.sbcAbx w) := ⟨.twoBytes .sbcAbx, row_at (op := 0xFD) rfl rfl, rfl, w, rfl, rfl⟩
theorem incAbx (w : Word) : Statement (.incAbx w) := ⟨.twoBytes .incAbx, row_at (op := 0xFE) rfl rfl, rfl, w, rfl, rfl⟩
theorem iscAbx (w : Word) : Statement (.iscAbx w) := ⟨.twoBytes .iscAbx, row_at (op := 0xFF) rfl rfl, rfl, w, rfl, rfl⟩

/-- The per-constructor lemmas, put together. -/
theorem all (i : Instr) : Statement i :=
  match i with
  | .brk => brk
  | .oraIzx z => oraIzx z
  | .kil02 => kil02
  | .sloIzx z => sloIzx z
  | .nopZp04 z => nopZp04 z
  | .oraZp z => oraZp z
  | .aslZp z => aslZp z
  | .sloZp z => sloZp z
  | .php => php
  | .oraImm b => oraImm b
  | .aslAcc => aslAcc
  | .ancImm0B b => ancImm0B b
  | .nopAbs w => nopAbs w
  | .oraAbs w => oraAbs w
  | .aslAbs w => aslAbs w
  | .sloAbs w => sloAbs w
  | .bplRel o => bplRel o
  | .oraIzy z => oraIzy z
  | .kil12 => kil12
  | .sloIzy z => sloIzy z
  | .nopZpx14 z => nopZpx14 z
  | .oraZpx z => oraZpx z
  | .aslZpx z => aslZpx z
  | .sloZpx z => sloZpx z
  | .clc => clc
  | .oraAby w => oraAby w
  | .nopImp1A => nopImp1A
  | .sloAby w => sloAby w
  | .nopAbx1C w => nopAbx1C w
  | .oraAbx w => oraAbx w
  | .aslAbx w => aslAbx w
  | .sloAbx w => sloAbx w
  | .jsrAbs w => jsrAbs w
  | .andIzx z => andIzx z
  | .kil22 => kil22
  | .rlaIzx z => rlaIzx z
  | .bitZp z => bitZp z
  | .andZp z => andZp z
  | .rolZp z => rolZp z
  | .rlaZp z => rlaZp z
  | .plp => plp
  | .andImm b => andImm b
  | .rolAcc => rolAcc
  | .ancImm2B b => ancImm2B b
  | .bitAbs w => bitAbs w
  | .andAbs w => andAbs w
  | .rolAbs w => rolAbs w
  | .rlaAbs w => rlaAbs w
  | .bmiRel o => bmiRel o
  | .andIzy z => andIzy z
  | .kil32 => kil32
  | .rlaIzy z => rlaIzy z
  | .nopZpx34 z => nopZpx34 z
  | .andZpx z => andZpx z
  | .rolZpx z => rolZpx z
  | .rlaZpx z => rlaZpx z
  | .sec => sec
  | .andAby w => andAby w
  | .nopImp3A => nopImp3A
  | .rlaAby w => rlaAby w
  | .nopAbx3C w => nopAbx3C w
  | .andAbx w => andAbx w
  | .rolAbx w => rolAbx w
  | .rlaAbx w => rlaAbx w
  | .rti => rti
  | .eorIzx z => eorIzx z
  | .kil42 => kil42
  | .sreIzx z => sreIzx z
  | .nopZp44 z => nopZp44 z
  | .eorZp z => eorZp z
  | .lsrZp z => lsrZp z
  | .sreZp z => sreZp z
  | .pha => pha
  | .eorImm b => eorImm b
  | .lsrAcc => lsrAcc
  | .alrImm b => alrImm b
  | .jmpAbs w => jmpAbs w
  | .eorAbs w => eorAbs w
  | .lsrAbs w => lsrAbs w
  | .sreAbs w => sreAbs w
  | .bvcRel o => bvcRel o
  | .eorIzy z => eorIzy z
  | .kil52 => kil52
  | .sreIzy z => sreIzy z
  | .nopZpx54 z => nopZpx54 z
  | .eorZpx z => eorZpx z
  | .lsrZpx z => lsrZpx z
  | .sreZpx z => sreZpx z
  | .cli => cli
  | .eorAby w => eorAby w
  | .nopImp5A => nopImp5A
  | .sreAby w => sreAby w
  | .nopAbx5C w => nopAbx5C w
  | .eorAbx w => eorAbx w
  | .lsrAbx w => lsrAbx w
  | .sreAbx w => sreAbx w
  | .rts => rts
  | .adcIzx z => adcIzx z
  | .kil62 => kil62
  | .rraIzx z => rraIzx z
  | .nopZp64 z => nopZp64 z
  | .adcZp z => adcZp z
  | .rorZp z => rorZp z
  | .rraZp z => rraZp z
  | .pla => pla
  | .adcImm b => adcImm b
  | .rorAcc => rorAcc
  | .arrImm b => arrImm b
  | .jmpInd w => jmpInd w
  | .adcAbs w => adcAbs w
  | .rorAbs w => rorAbs w
  | .rraAbs w => rraAbs w
  | .bvsRel o => bvsRel o
  | .adcIzy z => adcIzy z
  | .kil72 => kil72
  | .rraIzy z => rraIzy z
  | .nopZpx74 z => nopZpx74 z
  | .adcZpx z => adcZpx z
  | .rorZpx z => rorZpx z
  | .rraZpx z => rraZpx z
  | .sei => sei
  | .adcAby w => adcAby w
  | .nopImp7A => nopImp7A
  | .rraAby w => rraAby w
  | .nopAbx7C w => nopAbx7C w
  | .adcAbx w => adcAbx w
  | .rorAbx w => rorAbx w
  | .rraAbx w => rraAbx w
  | .nopImm80 b => nopImm80 b
  | .staIzx z => staIzx z
  | .nopImm82 b => nopImm82 b
  | .saxIzx z => saxIzx z
  | .styZp z => styZp z
  | .staZp z => staZp z
  | .stxZp z => stxZp z
  | .saxZp z => saxZp z
  | .dey => dey
  | .nopImm89 b => nopImm89 b
  | .txa => txa
  | .xaaImm b => xaaImm b
  | .styAbs w => styAbs w
  | .staAbs w => staAbs w
  | .stxAbs w => stxAbs w
  | .saxAbs w => saxAbs w
  | .bccRel o => bccRel o
  | .staIzy z => staIzy z
  | .kil92 => kil92
  | .ahxIzy z => ahxIzy z
  | .styZpx z => styZpx z
  | .staZpx z => staZpx z
  | .stxZpy z => stxZpy z
  | .saxZpy z => saxZpy z
  | .tya => tya
  | .staAby w => staAby w
  | .txs => txs
  | .tasAby w => tasAby w
  | .shyAbx w => shyAbx w
  | .staAbx w => staAbx w
  | .shxAby w => shxAby w
  | .ahxAby w => ahxAby w
  | .ldyImm b => ldyImm b
  | .ldaIzx z => ldaIzx z
  | .ldxImm b => ldxImm b
  | .laxIzx z => laxIzx z
  | .ldyZp z => ldyZp z
  | .ldaZp z => ldaZp z
  | .ldxZp z => ldxZp z
  | .laxZp z => laxZp z
  | .tay => tay
  | .ldaImm b => ldaImm b
  | .tax => tax
  | .laxImm b => laxImm b
  | .ldyAbs w => ldyAbs w
  | .ldaAbs w => ldaAbs w
  | .ldxAbs w => ldxAbs w
  | .laxAbs w => laxAbs w
  | .bcsRel o => bcsRel o
  | .ldaIzy z => ldaIzy z
  | .kilB2 => kilB2
  | .laxIzy z => laxIzy z
  | .ldyZpx z => ldyZpx z
  | .ldaZpx z => ldaZpx z
  | .ldxZpy z => ldxZpy z
  | .laxZpy z => laxZpy z
  | .clv => clv
  | .ldaAby w => ldaAby w
  | .tsx => tsx
  | .lasAby w => lasAby w
  | .ldyAbx w => ldyAbx w
  | .ldaAbx w => ldaAbx w
  | .ldxAby w => ldxAby w
  | .laxAby w => laxAby w
  | .cpyImm b => cpyImm b
  | .cmpIzx z => cmpIzx z
  | .nopImmC2 b => nopImmC2 b
  | .dcpIzx z => dcpIzx z
  | .cpyZp z => cpyZp z
  | .cmpZp z => cmpZp z
  | .decZp z => decZp z
  | .dcpZp z => dcpZp z
  | .iny => iny
  | .cmpImm b => cmpImm b
  | .dex => dex
  | .axsImm b => axsImm b
  | .cpyAbs w => cpyAbs w
  | .cmpAbs w => cmpAbs w
  | .decAbs w => decAbs w
  | .dcpAbs w => dcpAbs w
  | .bneRel o => bneRel o
  | .cmpIzy z => cmpIzy z
  | .kilD2 => kilD2
  | .dcpIzy z => dcpIzy z
  | .nopZpxD4 z => nopZpxD4 z
  | .cmpZpx z => cmpZpx z
  | .decZpx z => decZpx z
  | .dcpZpx z => dcpZpx z
  | .cld => cld
  | .cmpAby w => cmpAby w
  | .nopImpDA => nopImpDA
  | .dcpAby w => dcpAby w
  | .nopAbxDC w => nopAbxDC w
  | .cmpAbx w => cmpAbx w
  | .decAbx w => decAbx w
  | .dcpAbx w => dcpAbx w
  | .cpxImm b => cpxImm b
  | .sbcIzx z => sbcIzx z
  | .nopImmE2 b => nopImmE2 b
  | .iscIzx z => iscIzx z
  | .cpxZp z => cpxZp z
  | .sbcZp z => sbcZp z
  | .incZp z => incZp z
  | .iscZp z => iscZp z
  | .inx => inx
  | .sbcImm b => sbcImm b
  | .nop => nop
  | .sbcImmEB b => sbcImmEB b
  | .cpxAbs w => cpxAbs w
  | .sbcAbs w => sbcAbs w
  | .incAbs w => incAbs w
  | .iscAbs w => iscAbs w
  | .beqRel o => beqRel o
  | .sbcIzy z => sbcIzy z
  | .kilF2 => kilF2
  | .iscIzy z => iscIzy z
  | .nopZpxF4 z => nopZpxF4 z
  | .sbcZpx z => sbcZpx z
  | .incZpx z => incZpx z
  | .iscZpx z => iscZpx z
  | .sed => sed
  | .sbcAby w => sbcAby w
  | .nopImpFA => nopImpFA
  | .iscAby w => iscAby w
  | .nopAbxFC w => nopAbxFC w
  | .sbcAbx w => sbcAbx w
  | .incAbx w => incAbx w
  | .iscAbx w => iscAbx w

end Sys2Proof.Laws.Encoding
end

