-- ==== Sys2Proof/Laws/Stores.lean ====
section
/-! SUPPORT. Every operation that changes a byte store keeps its canonical form and its size: the Bus write (R65), the
video write (R335), painting (R342) and the loader's copy (R312). -/

namespace Sys2Proof.Machine

/-! ### The Bus -/

/-- A mask bounds the number it is applied to. -/
theorem and_toNat_lt (a m : Word) (n : Nat) (h : m.toNat < n) : (a &&& m).toNat < n := by
  rw [BitVec.toNat_and]
  exact Nat.lt_of_le_of_lt Nat.and_le_right h

/-- The index of a storage cell is inside its store. -/
def Cell.inRange : Cell → Prop
  | .flat k => k < Config.flatSize
  | .ram k => k < Config.ramSize
  | .bankLo k => k < Config.romBankSize
  | .bankHi k => k < Config.romBankSize
  | .reg _ => True

/-- R303 to R305: translation gives an index inside the store. -/
theorem translate_inRange (s : State) (a : Word) (c : Cell) (h : s.translate a = some c) : c.inRange := by
  simp only [State.translate] at h
  cases hd : s.deviceAt a with
  | none => simp [hd] at h
  | some d =>
    cases d with
    | flat =>
      simp only [hd, Option.some.injEq] at h
      subst h
      exact a.isLt
    | ppu =>
      simp only [hd, Option.some.injEq] at h
      subst h
      trivial
    | banked =>
      simp only [hd, Option.some.injEq, bankedCell] at h
      split at h
      · subst h
        exact and_toNat_lt a 0x07FF 2048 (by decide)
      · split at h
        · subst h
          exact and_toNat_lt a 0x3FFF 16384 (by decide)
        · split at h <;> subst h <;> exact and_toNat_lt a 0x3FFF 16384 (by decide)

/-- The CPU's stores are canonical and of their sizes. -/
def State.storesWf (s : State) : Prop :=
  s.flat.wf Config.flatSize ∧ s.ram.wf Config.ramSize ∧ s.bankLo.wf Config.romBankSize ∧ s.bankHi.wf

/-- R65, R306: a Bus write keeps every store canonical. -/
theorem storesWf_busWrite (a : Word) (v : Byte) (s : State) (h : s.storesWf) : (busWrite a v s).storesWf := by
  obtain ⟨hf, hr, hl, hh⟩ := h
  unfold busWrite
  cases ht : s.translate a with
  | none => exact ⟨hf, hr, hl, hh⟩
  | some c =>
    have hc := translate_inRange s a c ht
    cases c with
    | flat k => exact ⟨Memory.wf_set _ _ _ _ hc hf, hr, hl, hh⟩
    | ram k => exact ⟨hf, Memory.wf_set _ _ _ _ hc hr, hl, hh⟩
    | bankLo k => exact ⟨hf, hr, Memory.wf_set _ _ _ _ hc hl, hh⟩
    | reg i => exact ⟨hf, hr, hl, hh⟩
    | bankHi k =>
      cases hb : s.bankHi with
      | mirrored => exact absurd hb (translate_bankHi s a k ht)
      | own m =>
        rw [hb] at hh
        simp only [State.writeCell, hb]
        exact ⟨hf, hr, hl, Memory.wf_set _ _ _ _ hc hh⟩

/-- An instruction keeps every store canonical. -/
theorem storesWf_effect {s t : State} (h : Effect s t) : s.storesWf → t.storesWf :=
  Effect.lift (R := fun s t => s.storesWf → t.storesWf) (fun _ h => h) (fun _ _ _ h k x => k (h x))
    (fun _ _ _ _ _ _ _ _ _ h => h) (fun s ea v => storesWf_busWrite ea v s) h

/-! ### The PPU -/

/-- R337: a physical table is inside the nametable RAM. -/
theorem physicalTable_lt (m : Mirroring) (l : BitVec 2) :
    (physicalTable m l + 1) * Config.nametableSize ≤ Config.nametableRam m := by
  have h := l.isLt
  cases m <;> simp only [physicalTable, Config.nametableSize, Config.nametableRam] <;> omega

/-- R338: a palette index is inside the palette and never one of the four aliased entries. -/
theorem paletteIndex_lt (v : BitVec 14) :
    paletteIndex v < Config.paletteSize ∧ ∀ k ∈ [0x10, 0x14, 0x18, 0x1C], paletteIndex v ≠ k := by
  have h : v.toNat % 32 < 32 := Nat.mod_lt _ (by decide)
  simp only [paletteIndex, Config.paletteSize, List.mem_cons, List.not_mem_nil, or_false, forall_eq_or_imp, forall_eq]
  split <;> omega

/-- R335: a video write keeps the PPU's stores canonical, and never stores an aliased palette entry. -/
theorem wf_writeVideoCell (u : Ppu) (l : Launch) (b : Byte) (v : BitVec 14) (h : u.wf l) :
    (u.writeVideoCell b (videoCell l.mirroring v)).wf l := by
  obtain ⟨hc, hn, hp, ho, hf, ha, hk⟩ := h
  have chr : ∀ k, k < Config.chrSize → (u.writeVideoCell b (.chr k)).wf l :=
    fun k hlt => ⟨Memory.wf_set _ _ _ _ hlt hc, hn, hp, ho, hf, ha, hk⟩
  have nt : ∀ k, k < Config.nametableRam l.mirroring → (u.writeVideoCell b (.nt k)).wf l :=
    fun k hlt => ⟨hc, Memory.wf_set _ _ _ _ hlt hn, hp, ho, hf, ha, hk⟩
  have hl := physicalTable_lt l.mirroring (v.extractLsb' 10 2)
  simp only [Config.nametableSize] at hl
  unfold videoCell
  split
  · exact chr _ (Nat.mod_lt _ (by decide))
  · exact chr _ (Nat.mod_lt _ (by decide))
  · refine nt _ ?_
    simp only [Config.nametableSize]
    have := Nat.mod_lt v.toNat (show 1024 > 0 by decide)
    omega
  · obtain ⟨hlt, hne⟩ := paletteIndex_lt v
    refine ⟨hc, hn, Memory.wf_set _ _ _ _ hlt hp, ho, hf, fun k hmem => ?_, hk⟩
    show (u.pal.set (paletteIndex v) b).get k = Config.blankByte
    rw [Memory.get_set_other _ _ _ _ (Ne.symm (hne k hmem))]
    exact ha k hmem

/-- R342: painting keeps the frame buffers canonical. -/
theorem wf_paint (u : Ppu) (l : Launch) (hl : l.wellFormed = true) (h : u.wf l) :
    (u.paint (Launch.frameSize l)).wf l := by
  obtain ⟨hc, hn, hp, ho, hf, ha, hk⟩ := h
  have hpos : 0 < Launch.frameSize l := by simpa [Launch.wellFormed, Launch.frameSize] using hl
  refine ⟨hc, hn, hp, ho, fun b => ?_, ha, hk⟩
  show ((u.frame.set u.active.val _ u.active.isLt).get b).wf _ = true
  have hget : ∀ (x : Memory), (u.frame.set u.active.val x u.active.isLt).get b =
      if u.active = b then x else u.frame.get b := by
    intro x
    show (u.frame.set u.active.val x u.active.isLt)[b.val]'b.isLt = _
    rw [Vector.getElem_set]
    by_cases hab : u.active = b
    · simp [hab]
    · have : u.active.val ≠ b.val := fun he => hab (Fin.ext he)
      simp only [this, hab, if_false]
      rfl
  rw [hget]
  split
  · exact Memory.wf_set _ _ _ _ (Nat.mod_lt _ hpos) (hf u.active)
  · exact hf b

/-! ### The loader and the placing of an instruction -/

/-- R312: what a loader copies is canonical. -/
theorem wf_imageSlice (image : List Byte) (offset n : Nat) (m : Memory) (h : imageSlice image offset n = some m) :
    m.wf n = true := by
  simp only [imageSlice] at h
  split at h
  · rename_i hn
    cases h
    have := Memory.wf_ofBytes ((image.drop offset).take n)
    rwa [hn] at this
  · cases h

/-- R312: an image that is long enough can be copied from. -/
theorem imageSlice_some (image : List Byte) (offset n : Nat) (h : offset + n ≤ image.length) :
    ∃ m, imageSlice image offset n = some m := by
  have hl : ((image.drop offset).take n).length = n := by simp; omega
  exact ⟨_, by rw [imageSlice]; simp only [hl, if_true]; rfl⟩

/-- R312: what a loader copies is the image's bytes. -/
theorem get_imageSlice (image : List Byte) (offset n : Nat) (m : Memory) (h : imageSlice image offset n = some m)
    (k : Nat) (hk : k < n) : m.get k = image.getD (offset + k) 0 := by
  simp only [imageSlice] at h
  split at h
  · cases h
    have hg := Memory.get_ofBytes ((image.drop offset).take n) 0 k
    rw [Nat.zero_add] at hg
    rw [hg]
    simp [List.getD_eq_getElem?_getD, hk, List.getElem?_drop]
  · cases h

theorem storesWf_storeBytes (a : Word) (bs : List Byte) (s : State) (h : s.storesWf) : (storeBytes a bs s).storesWf := by
  induction bs generalizing a s with
  | nil => exact h
  | cons b bs ih => exact ih _ _ (storesWf_busWrite a b s h)

end Sys2Proof.Machine
end

