-- ==== Sys2Proof/Laws/Clock.lean ====
section
/-! SUPPORT. Fetching and the CPU clock: what a fetch answers, and everything a CPU clock can do to the state, said
once. -/

namespace Sys2Proof.Machine

/-! ### Fetching -/

/-- R64: what a byte fetched from an address outside the PPU window is. -/
theorem busRead_plain (s : State) (a : Word) (h : s.plain a) : busRead a s = (s.stored a, s) := by
  rw [busRead, peek_eq_stored s a h, State.afterRead]
  cases ht : s.translate a with
  | none => rfl
  | some c => cases c <;> first | rfl | exact absurd ht (h _)

theorem fetchBytes_length (n : Nat) (s : State) : (fetchBytes n s).1.length = n := by
  induction n generalizing s with
  | zero => rfl
  | succ n ih => simp [fetchBytes, ih]

/-- R68, R73: fetching bytes moves PC past them and draws free bytes, nothing else. -/
theorem fetchBytes_state (n : Nat) (s : State) :
    ∃ k, (fetchBytes n s).2 = { s with pc := s.pc + BitVec.ofNat 16 n, draws := k } := by
  induction n generalizing s with
  | zero => exact ⟨s.draws, by simp [fetchBytes]⟩
  | succ n ih =>
    obtain ⟨m, hm⟩ := afterRead_eq s s.pc
    obtain ⟨k, hk⟩ := ih { s.afterRead s.pc with pc := (s.afterRead s.pc).pc + 1 }
    refine ⟨k, ?_⟩
    show (fetchBytes n { s.afterRead s.pc with pc := (s.afterRead s.pc).pc + 1 }).2 = _
    rw [hk, hm]
    simp only [address_succ]

theorem fetchBytes_effect (n : Nat) (s : State) : Effect s (fetchBytes n s).2 := by
  obtain ⟨k, h⟩ := fetchBytes_state n s
  rw [h]
  exact Effect.change s s.a s.x s.y s.sp s.p _ s.cyclesLeft k

/-- R64, R68, R82: outside the PPU window, bytes fetched are the stored ones, in ascending order of address. -/
theorem fetchBytes_plain (n : Nat) (s : State) (h : ∀ k < n, s.plain (s.pc + BitVec.ofNat 16 k)) :
    fetchBytes n s =
      ((List.range n).map fun k => s.stored (s.pc + BitVec.ofNat 16 k), { s with pc := s.pc + BitVec.ofNat 16 n }) := by
  induction n generalizing s with
  | zero => simp [fetchBytes]
  | succ n ih =>
    have h0 : s.plain s.pc := by simpa using h 0 (by omega)
    have ht := ih { s with pc := s.pc + 1 } fun k hk => by
      have := h (k + 1) (by omega)
      rwa [← address_succ] at this
    simp only [fetchBytes, busRead_plain s s.pc h0]
    rw [ht]
    simp only [List.range_succ_eq_map, List.map_cons, List.map_map, Function.comp_def, address_succ,
      Nat.succ_eq_add_one, address_zero]
    rfl

/-- R101: the instructions of an opcode byte with an Immediate entry take one operand byte. -/
theorem instrLength_immediate (op : Byte) (h : isImmediate op = true) : instrLength op = 2 := by
  simp only [isImmediate] at h
  simp only [instrLength]
  split at h
  · rename_i make hr
    rw [hr]
    rfl
  · cases h

theorem fetchOperands_length (op : Byte) (s : State) : (fetchOperands op s).1.length = instrLength op - 1 := by
  unfold fetchOperands
  split
  · rename_i h
    rw [instrLength_immediate op h]
    rfl
  · exact fetchBytes_length _ _

/-- R130, R132: fetching operand bytes moves PC and draws free bytes, nothing else. -/
theorem fetchOperands_effect (op : Byte) (s : State) : Effect s (fetchOperands op s).2 := by
  unfold fetchOperands
  split
  · exact effect_setPc _ s
  · exact fetchBytes_effect _ s

theorem fetchInstruction_effect (s : State) : Effect s (fetchInstruction s).2 :=
  ((effect_afterRead s.pc s).trans (effect_setPc _ (s.afterRead s.pc))).trans (fetchOperands_effect _ _)

/-- R402 (1c): a fetch always gives an instruction, and only moves PC and draws free bytes. -/
theorem fetch_next (s : State) : ∃ i u, fetch s = .ok (i, u) ∧ Effect s u := by
  obtain ⟨i, hi, -⟩ := decode_operands (busRead s.pc s).1
    (fetchOperands (busRead s.pc s).1 { (busRead s.pc s).2 with pc := (busRead s.pc s).2.pc + 1 }).1
    (fetchOperands_length _ _)
  exact ⟨i, (fetchInstruction s).2, by simp only [fetch, fetchInstruction, hi], fetchInstruction_effect s⟩

/-! ### The CPU clock -/

/-- R372 to R376, R402: a CPU clock counts down, acknowledges an interrupt, or fetches an instruction and runs it. -/
theorem cpuClock_cases (s : State) :
    (s.cyclesLeft ≠ 0 ∧ cpuClock s = countDown (.next s)) ∨
    (s.cyclesLeft = 0 ∧ s.acceptsNmi = true ∧ cpuClock s = countDown (.next (acknowledge .nmi s))) ∨
    (s.cyclesLeft = 0 ∧ s.acceptsNmi = false ∧ s.acceptsIrq = true ∧
      cpuClock s = countDown (.next (acknowledge .irq s))) ∨
    (s.fetchesNext ∧ ∃ i u v, fetch (settleMaskedIrq s) = .ok (i, u) ∧ Effect (settleMaskedIrq s) u ∧
      exec i u = .next v ∧ Effect u v ∧ cpuClock s = countDown (.next v)) := by
  by_cases h0 : s.cyclesLeft = 0
  · cases hn : s.acceptsNmi with
    | true => exact .inr (.inl ⟨h0, rfl, by simp only [cpuClock, h0, if_true, atBoundary, hn]⟩)
    | false =>
      cases hi : s.acceptsIrq with
      | true =>
        exact .inr (.inr (.inl ⟨h0, rfl, rfl, by simp [cpuClock, h0, atBoundary, hn, hi]⟩))
      | false =>
        obtain ⟨i, u, hf, hu⟩ := fetch_next (settleMaskedIrq s)
        obtain ⟨v, hv, he⟩ := exec_next i u
        refine .inr (.inr (.inr ⟨⟨h0, hn, hi⟩, i, u, v, hf, hu, hv, he, ?_⟩))
        simp [cpuClock, h0, atBoundary, hn, hi, fetchAndExecute, hf, hv]
  · exact .inl ⟨h0, by simp only [cpuClock, h0, if_false]⟩

/-- A relation between states that is reflexive and transitive, and holds of every effect and of a change of the
latches, holds across every CPU clock. -/
theorem cpuClock_lift {R : State → State → Prop} (hr : ∀ s, R s s) (ht : ∀ s t u, R s t → R t u → R s u)
    (he : ∀ s t, Effect s t → R s t)
    (hl : ∀ (s : State) (nmi irq : Bool), R s { s with nmiPending := nmi, irqPending := irq })
    {s t : State} (h : cpuClock s = .next t) : R s t := by
  have hc : ∀ (u : State) (n : Nat), R u { u with cyclesLeft := n } :=
    fun u n => he _ _ (Effect.change u u.a u.x u.y u.sp u.p u.pc n u.draws)
  have hack : ∀ kind u, R u (acknowledge kind u) := by
    intro kind u
    obtain ⟨v, hv, hk⟩ := takeException_cases kind u
    have hlatch : R v (clearLatch kind v) := by
      cases kind
      · exact hr v
      · exact hl v v.nmiPending false
      · exact hl v false v.irqPending
    refine ht _ _ _ (ht _ _ _ (he _ _ hv) hlatch) ?_
    rw [← hk]
    exact hc _ _
  have hset : R s (settleMaskedIrq s) := by
    unfold settleMaskedIrq
    split
    · exact hr s
    · split
      · exact hl s s.nmiPending false
      · exact hr s
  rcases cpuClock_cases s with ⟨-, hk⟩ | ⟨-, -, hk⟩ | ⟨-, -, -, hk⟩ | ⟨-, i, u, v, -, hu, -, hv, hk⟩ <;>
    (rw [hk] at h; cases h)
  · exact hc _ _
  · exact ht _ _ _ (hack _ _) (hc _ _)
  · exact ht _ _ _ (hack _ _) (hc _ _)
  · exact ht _ _ _ hset (ht _ _ _ (he _ _ hu) (ht _ _ _ (he _ _ hv) (hc _ _)))

/-- R334, R375: what no instruction changes. -/
theorem effect_keepsHidden {s t : State} (h : Effect s t) : KeepsHidden s t :=
  Effect.lift (R := KeepsHidden) (fun s => ⟨rfl, rfl, keepsMachine_refl s⟩) (fun _ _ _ h k => keepsHidden_trans h k)
    (fun s _ _ _ _ _ _ _ _ => ⟨rfl, rfl, keepsMachine_refl s⟩) (fun s ea v => busWrite_keepsHidden ea v s) h

/-- R334: what no CPU clock changes. -/
theorem cpuClock_keepsMachine {s t : State} (h : cpuClock s = .next t) : KeepsMachine s t :=
  cpuClock_lift (R := KeepsMachine) keepsMachine_refl (fun _ _ _ h k => keepsMachine_trans h k)
    (fun _ _ h => (effect_keepsHidden h).2.2) (fun s _ _ => keepsMachine_refl s) h

/-- R65, R306: a CPU clock keeps every store canonical. -/
theorem cpuClock_storesWf {s t : State} (h : cpuClock s = .next t) : s.storesWf → t.storesWf :=
  cpuClock_lift (R := fun s t => s.storesWf → t.storesWf) (fun _ h => h) (fun _ _ _ h k x => k (h x))
    (fun _ _ h => storesWf_effect h) (fun _ _ _ h => h) h

/-- R402: a clock inside a countdown only counts. -/
theorem cpuClock_idle (s : State) (n : Nat) (h : s.cyclesLeft = n + 1) :
    cpuClock s = .next { s with cyclesLeft := n } := by
  simp [cpuClock, h, countDown]

/-- R104: base cycle counts. -/
theorem baseCycles_range (i : Instr) : 2 ≤ i.baseCycles ∧ i.baseCycles ≤ 8 := by
  cases i <;> simp [Instr.baseCycles]

end Sys2Proof.Machine
end

