-- ==== Sys2Proof/Laws/Disassembler.lean ====
section
/-! SUPPORT. What a disassembly can be, said once: its lines, where it stops and what it changes (R118, R119). -/

namespace Sys2Proof.Machine

/-- The bytes that the lines of a listing cover. -/
def coveredBytes (lines : List Line) : Nat := (lines.map Line.length).sum

@[simp] theorem coveredBytes_nil : coveredBytes [] = 0 := rfl

@[simp] theorem coveredBytes_cons (line : Line) (lines : List Line) :
    coveredBytes (line :: lines) = line.length + coveredBytes lines := by
  simp [coveredBytes]

/-- A line shows an instruction decoded from bytes read at its address: outside the PPU window, the stored ones. -/
def Line.shows (line : Line) (s : State) : Prop :=
  ∃ (i : Instr) (op : Byte) (operands : List Byte), encode i = op :: operands ∧
    line.text = String.ofList (instrText line.address i) ∧ line.length = operands.length + 1 ∧
    (s.plain line.address → op = s.stored line.address) ∧
    ((∀ j < line.length, s.plain (line.address + BitVec.ofNat 16 j)) →
      op :: operands = (List.range line.length).map fun j => s.stored (line.address + BitVec.ofNat 16 j))

/-- R118, R119: one turn of the disassembler. It stops, at the byte ceiling only, or it lists the instruction at the
cursor and goes on after it. -/
theorem disassembleFrom_cases (fuel used maxBytes : Nat) (s : State) :
    ((disassembleFrom (fuel + 1) used maxBytes s).1 = [] ∧
      (∃ n, (disassembleFrom (fuel + 1) used maxBytes s).2 = { s with draws := n }) ∧ maxBytes ≠ 0 ∧
      ∃ op, maxBytes < used + instrLength op ∧ (s.plain s.pc → op = s.stored s.pc)) ∨
    ∃ (line : Line) (n : Nat), line.address = s.pc ∧ 1 ≤ line.length ∧ line.shows s ∧
      (maxBytes ≠ 0 → used + line.length ≤ maxBytes) ∧
      disassembleFrom (fuel + 1) used maxBytes s =
        let rest := disassembleFrom fuel (used + line.length) maxBytes
          { s with pc := s.pc + BitVec.ofNat 16 line.length, draws := n }
        (line :: rest.1, rest.2) := by
  obtain ⟨n₁, h₁⟩ := afterRead_eq s s.pc
  simp only [disassembleFrom]
  split
  · rename_i hm
    exact .inl ⟨rfl, ⟨s.draws, rfl⟩, hm.1, s.stored s.pc,
      by have := instrLength_pos (s.stored s.pc); omega, fun _ => rfl⟩
  · have hop : s.plain s.pc → (busRead s.pc s).1 = s.stored s.pc := fun h => by rw [busRead_plain s s.pc h]
    generalize hb : busRead s.pc s = b at hop
    obtain ⟨op, s'⟩ := b
    have hs' : s' = { s with draws := n₁ } := by
      have : (busRead s.pc s).2 = s' := by rw [hb]
      rw [← this]
      exact h₁
    dsimp only at hop ⊢
    split
    · rename_i hm
      exact .inl ⟨rfl, ⟨n₁, hs'⟩, hm.1, op, hm.2, hop⟩
    · rename_i hm
      have hl := fetchBytes_length (instrLength op - 1) { s' with pc := s'.pc + 1 }
      obtain ⟨n₂, h₂⟩ := fetchBytes_state (instrLength op - 1) { s' with pc := s'.pc + 1 }
      have hp := fetchBytes_plain (instrLength op - 1) { s' with pc := s'.pc + 1 }
      generalize fetchBytes (instrLength op - 1) { s' with pc := s'.pc + 1 } = f at hl h₂ hp
      obtain ⟨operands, t⟩ := f
      dsimp only at hl h₂ hp ⊢
      obtain ⟨i, hi, he⟩ := decode_operands op operands hl
      have hpos := instrLength_pos op
      have hil : i.length = operands.length + 1 := by rw [Instr.length, he]; rfl
      have hlen : i.length = instrLength op := by omega
      rw [hi]
      refine .inr ⟨⟨s.pc, String.ofList (instrText s.pc i), i.length⟩, n₂, rfl,
        by show 1 ≤ i.length; omega,
        ⟨i, op, operands, he, rfl, hil, hop, ?_⟩, fun h => by
          show used + i.length ≤ maxBytes
          rw [hlen]
          exact Nat.le_of_not_lt fun hlt => hm ⟨h, hlt⟩, ?_⟩
      · intro hplain
        change ∀ j < i.length, s.plain (s.pc + BitVec.ofNat 16 j) at hplain
        show op :: operands = (List.range i.length).map fun j => s.stored (s.pc + BitVec.ofNat 16 j)
        have h0 : s.plain s.pc := by simpa using hplain 0 (by omega)
        have hrest := hp fun k hk => by
          have := hplain (k + 1) (by omega)
          rw [← address_succ] at this
          rw [hs']
          exact this
        have hops : operands = _ := congrArg Prod.fst hrest
        rw [hlen, show instrLength op = instrLength op - 1 + 1 by omega, List.range_succ_eq_map, hops]
        simp only [List.map_cons, List.map_map, Function.comp_def, address_zero, Nat.succ_eq_add_one, hs',
          address_succ]
        exact congrArg₂ List.cons (hop h0) rfl
      · have ht : t = { s with pc := s.pc + BitVec.ofNat 16 i.length, draws := n₂ } := by
          rw [h₂, hs', hlen, show instrLength op = instrLength op - 1 + 1 by omega, ← address_succ]
          rfl
        dsimp only
        rw [ht]

/-- R118, R119: what a disassembly answers: which lines, what they cover, why it stops, and what it changes. -/
theorem disassembleFrom_spec (fuel used maxBytes : Nat) (s : State) :
    ∃ (lines : List Line) (t : State), disassembleFrom fuel used maxBytes s = (lines, t) ∧
      (∃ n, t = { s with pc := s.pc + BitVec.ofNat 16 (coveredBytes lines), draws := n }) ∧
      lines.length ≤ fuel ∧ lines.length ≤ coveredBytes lines ∧
      (maxBytes ≠ 0 → used ≤ maxBytes → used + coveredBytes lines ≤ maxBytes) ∧
      (lines.length < fuel → maxBytes ≠ 0 ∧ ∃ op, maxBytes < used + coveredBytes lines + instrLength op ∧
        (s.plain (s.pc + BitVec.ofNat 16 (coveredBytes lines)) →
          op = s.stored (s.pc + BitVec.ofNat 16 (coveredBytes lines)))) ∧
      ∀ k line, lines[k]? = some line →
        line.address = s.pc + BitVec.ofNat 16 (coveredBytes (lines.take k)) ∧ line.shows s := by
  induction fuel generalizing used s with
  | zero =>
    exact ⟨[], s, rfl, ⟨s.draws, by simp⟩, Nat.le_refl 0, Nat.le_refl 0, fun _ h => h,
      fun h => absurd h (Nat.lt_irrefl 0), fun k line h => by simp at h⟩
  | succ fuel ih =>
    rcases disassembleFrom_cases fuel used maxBytes s with ⟨hl, ⟨n, ht⟩, hm, op, hop, hstored⟩ |
      ⟨line, n, ha, hpos, hshow, hmax, h⟩
    · refine ⟨[], _, Prod.ext hl ht, ⟨n, by simp⟩, Nat.zero_le _, Nat.le_refl 0, fun _ h => h,
        fun _ => ⟨hm, op, hop, ?_⟩, fun k line h => by simp at h⟩
      simpa using hstored
    · obtain ⟨lines, t, he, ⟨k, ht⟩, hf, hc, hb, hstop, hlines⟩ := ih (used + line.length)
        { s with pc := s.pc + BitVec.ofNat 16 line.length, draws := n }
      rw [he] at h
      refine ⟨line :: lines, t, h, ⟨k, ?_⟩, Nat.succ_le_succ hf, ?_, ?_, ?_, ?_⟩
      · rw [ht, coveredBytes_cons, ← address_add]
      · rw [coveredBytes_cons, List.length_cons]
        omega
      · intro hm _
        have := hb hm (hmax hm)
        rw [coveredBytes_cons]
        omega
      · intro hlt
        obtain ⟨hm, op, hop, hst⟩ := hstop (Nat.lt_of_succ_lt_succ hlt)
        refine ⟨hm, op, by rw [coveredBytes_cons]; omega, ?_⟩
        rw [coveredBytes_cons, ← address_add]
        exact hst
      · intro j l hj
        cases j with
        | zero =>
          cases hj
          exact ⟨by simpa using ha, hshow⟩
        | succ j =>
          obtain ⟨h₁, h₂⟩ := hlines j l hj
          refine ⟨?_, h₂⟩
          rw [List.take_succ_cons, coveredBytes_cons, ← address_add]
          exact h₁

end Sys2Proof.Machine
end

