-- ==== Sys2Proof/Laws/Exceptions.lean ====
section
/-! SUPPORT. What pushes, pulls, taking an exception and returning from one can do, said once each. -/

namespace Sys2Proof.Machine

/-! ### Pushes -/

theorem push_frame (v : Byte) (s : State) : Frame [.s] [] s (push v s) := by
  obtain ⟨hr, hf, hh⟩ := busWrite_frame (stackAddress s.sp) v [] [] s s (fun _ _ => rfl) ⟨fun _ _ => rfl, rfl⟩
    ⟨rfl, rfl, keepsMachine_refl s⟩
  refine ⟨fun r h => ?_, hf, hh⟩
  cases r
  · exact hr .a (by simp)
  · exact hr .x (by simp)
  · exact hr .y (by simp)
  · simp at h

theorem push_translate (v : Byte) (s : State) (a : Word) : (push v s).translate a = s.translate a :=
  translate_busWrite (stackAddress s.sp) a v s

theorem push_bankHi (v : Byte) (s : State) : (push v s).bankHi = .mirrored ↔ s.bankHi = .mirrored :=
  busWrite_bankHi (stackAddress s.sp) v s

/-- P can change before a byte is pushed; what is stored is the same. -/
theorem push_after_status (v p : Byte) (s : State) :
    StoresByte (stackAddress s.sp) v s (push v { s with p := p }) :=
  storesByte_after (u := { s with p := p }) (stackAddress s.sp) v rfl

/-- R67: what pushing a word stores. -/
theorem pushWord_stores (w : Word) (s : State) :
    StoresBytes [(stackAddress s.sp, hiByte w), (stackAddress (s.sp - 1), loByte w)] s (pushWord w s) := by
  have hp : (push (hiByte w) s).sp = s.sp - 1 := push_sp _ s
  refine storesBytes_snoc [(stackAddress s.sp, hiByte w)] _ _ s (push (hiByte w) s) _ (push_storesByte _ s)
    (push_translate _ s) (push_bankHi _ s) ?_ ?_
  · rw [← hp]
    exact push_storesByte _ _
  · simp only [List.mem_singleton, forall_eq]
    refine stackAddress_cells s _ _ ?_
    rw [BitVec.toNat_sub]
    have := s.sp.isLt
    simp
    omega

theorem pushWord_keeps (w : Word) (s : State) :
    KeepsRegs [.s] s (pushWord w s) ∧ (pushWord w s).p = s.p ∧ (pushWord w s).pc = s.pc ∧
      KeepsHidden s (pushWord w s) := by
  obtain ⟨hr, -, hh⟩ := push_frame (hiByte w) s
  obtain ⟨kr, -, kh⟩ := push_frame (loByte w) (push (hiByte w) s)
  exact ⟨fun r h => (kr r h).trans (hr r h), by simp [pushWord], by simp [pushWord], keepsHidden_trans hh kh⟩

/-! ### Taking an exception -/

/-- What a relation between states that ignores the latches says of a cleared latch. -/
theorem clearLatch_keeps (kind : InterruptKind) (s : State) :
    (clearLatch kind s).a = s.a ∧ (clearLatch kind s).x = s.x ∧ (clearLatch kind s).y = s.y ∧
    (clearLatch kind s).sp = s.sp ∧ (clearLatch kind s).p = s.p ∧ (clearLatch kind s).pc = s.pc ∧
    KeepsMachine s (clearLatch kind s) ∧ (∀ c, (clearLatch kind s).readCell c = s.readCell c) ∧
    (∀ a, (clearLatch kind s).translate a = s.translate a) ∧
    (clearLatch kind s).nmiPending = (s.nmiPending && decide (kind ≠ .nmi)) ∧
    (clearLatch kind s).irqPending = (s.irqPending && decide (kind ≠ .irq)) := by
  cases kind <;>
    simp [clearLatch, KeepsMachine, KeepsVideo, State.translate, State.deviceAt] <;>
    intro c <;> cases c <;> rfl

theorem stored_of_cells (s t : State) (a : Word) (ht : t.translate a = s.translate a)
    (hc : ∀ c, t.readCell c = s.readCell c) : t.stored a = s.stored a := by
  simp only [State.stored, ht]
  cases s.translate a with
  | none => rfl
  | some c => exact hc c

theorem storesBytes_congr (w : List (Word × Byte)) (s t u : State) (h : StoresBytes w s t)
    (ht : ∀ a, u.translate a = t.translate a) (hc : ∀ c, u.readCell c = t.readCell c) : StoresBytes w s u :=
  ⟨fun c hc' a ha => (stored_of_cells t u a (ht a) hc).trans (h.1 c hc' a ha),
    fun a ha => (stored_of_cells t u a (ht a) hc).trans (h.2.1 a ha),
    fun d hd hn => (hc d).trans (h.2.2 d hd hn)⟩

/-- R376, R242: the state just before the vector is read: the return address and the status byte are pushed and I is
set. -/
def entered (kind : InterruptKind) (s : State) : State :=
  let s := pushWord (kind.returnAddress s.pc) s
  let s := { s with p := setBreak kind.breakPattern s.p }
  let s := push s.p s
  { s with p := setFlag .i true s.p }

theorem takeException_entered (kind : InterruptKind) (s : State) :
    ∃ n, takeException kind s = clearLatch kind
      { entered kind s with pc := (readPair kind.vector (kind.vector + 1) (entered kind s)).1, draws := n } := by
  obtain ⟨n, h⟩ := readPair_state kind.vector (kind.vector + 1) (entered kind s)
  refine ⟨n, ?_⟩
  show clearLatch kind { (readPair kind.vector (kind.vector + 1) (entered kind s)).2 with
    pc := (readPair kind.vector (kind.vector + 1) (entered kind s)).1 } = _
  rw [h]

/-- R376, R242: what entering an exception pushes and changes. -/
theorem entered_spec (kind : InterruptKind) (s : State) :
    StoresBytes [(stackAddress s.sp, hiByte (kind.returnAddress s.pc)),
      (stackAddress (s.sp - 1), loByte (kind.returnAddress s.pc)),
      (stackAddress (s.sp - 2), setBreak kind.breakPattern s.p)] s (entered kind s) ∧
    (entered kind s).sp = s.sp - 3 ∧ KeepsRegs [.s] s (entered kind s) ∧
    (entered kind s).p = setFlag .i true (setBreak kind.breakPattern s.p) ∧ KeepsHidden s (entered kind s) := by
  obtain ⟨hr, hp, -, hh⟩ := pushWord_keeps (kind.returnAddress s.pc) s
  have hw := pushWord_stores (kind.returnAddress s.pc) s
  have hsp := pushWord_sp (kind.returnAddress s.pc) s
  have hm := hh.2.2.2.1
  have ht := fun a => translate_congr s (pushWord (kind.returnAddress s.pc) s) hh.2.2.1 hm a
  simp only [entered]
  generalize pushWord (kind.returnAddress s.pc) s = t at *
  have hu : (push (setBreak kind.breakPattern t.p) { t with p := setBreak kind.breakPattern t.p }).p =
      setBreak kind.breakPattern t.p := push_p _ _
  have hus : (push (setBreak kind.breakPattern t.p) { t with p := setBreak kind.breakPattern t.p }).sp = t.sp - 1 :=
    push_sp _ _
  obtain ⟨kr, -, kh⟩ := push_frame (setBreak kind.breakPattern t.p) { t with p := setBreak kind.breakPattern t.p }
  have kw := push_after_status (setBreak kind.breakPattern t.p) (setBreak kind.breakPattern t.p) t
  generalize push (setBreak kind.breakPattern t.p) { t with p := setBreak kind.breakPattern t.p } = u at *
  rw [hp] at *
  have hkh : KeepsHidden t u := kh
  refine ⟨?_, ?_, ?_, ?_, ?_⟩
  · have h3 := storesBytes_snoc _ (stackAddress t.sp) (setBreak kind.breakPattern s.p) s t u hw ht hm kw ?_
    · rw [hsp] at h3
      exact h3
    · have h0 := s.sp.isLt
      intro c hc
      simp only [List.mem_cons, List.not_mem_nil, or_false] at hc
      rcases hc with hc | hc <;> subst hc <;> refine stackAddress_cells s _ _ ?_ <;> rw [hsp] <;>
        simp [BitVec.toNat_sub] <;> omega
  · show u.sp = _
    rw [hus, hsp, BitVec.sub_sub]
    rfl
  · intro r h
    exact (kr r h).trans (hr r h)
  · show setFlag .i true u.p = _
    rw [hu]
  · exact keepsHidden_trans hh hkh

end Sys2Proof.Machine
end

