-- ==== Sys2Proof/Laws/Relabel.lean ====
section
/-! SUPPORT. What no instruction looks at: a change of P that the flag operations do not see (of the Decimal flag, R188)
and of the PPU's counters and frame buffers (R341) commutes with every instruction. -/

namespace Sys2Proof.Machine

/-- The PPU `w` with the stores of `u` that a PPU clock does not change (R341): what a Bus access can see of it. -/
def Ppu.withStores (w u : Ppu) : Ppu := { w with reg := u.reg, chr := u.chr, nt := u.nt, pal := u.pal, oam := u.oam }

/-- `s` with P changed by `g` and the PPU replaced by `w`, but for the stores that a Bus access can see. -/
def relabel (g : Byte → Byte) (w : Ppu) (s : State) : State := { s with p := g s.p, ppu := w.withStores s.ppu }

/-- `g` changes no flag but Decimal, and commutes with the writing of every other. -/
structure Unseen (g : Byte → Byte) : Prop where
  get : ∀ f p, f ≠ .d → getFlag f (g p) = getFlag f p
  set : ∀ f b p, f ≠ .d → setFlag f b (g p) = g (setFlag f b p)

theorem unseen_id : Unseen id := ⟨fun _ _ _ => rfl, fun _ _ _ _ => rfl⟩

theorem unseen_decimal (b : Bool) : Unseen (setFlag .d b) where
  get f p h := by
    have key : ∀ p : Byte, ∀ b : Bool, getFlag .c (setFlag .d b p) = getFlag .c p ∧
        getFlag .z (setFlag .d b p) = getFlag .z p ∧ getFlag .i (setFlag .d b p) = getFlag .i p ∧
        getFlag .v (setFlag .d b p) = getFlag .v p ∧ getFlag .n (setFlag .d b p) = getFlag .n p := by decide
    have k := key p b
    cases f
    exacts [k.1, k.2.1, k.2.2.1, absurd rfl h, k.2.2.2.1, k.2.2.2.2]
  set f c p h := by
    have key : ∀ m n q : Byte, m &&& n = 0 →
        (q ||| m) ||| n = (q ||| n) ||| m ∧ (q &&& ~~~m) ||| n = (q ||| n) &&& ~~~m ∧
        (q ||| m) &&& ~~~n = (q &&& ~~~n) ||| m ∧ (q &&& ~~~m) &&& ~~~n = (q &&& ~~~n) &&& ~~~m := by
      intro m n q h
      have hb : ∀ i, (m.getLsbD i && n.getLsbD i) = false := fun i => by
        rw [← BitVec.getLsbD_and, h]
        exact BitVec.getLsbD_zero
      refine ⟨?_, ?_, ?_, ?_⟩ <;> ext i hi <;> have h' := hb i <;>
        simp only [BitVec.getElem_or, BitVec.getElem_and, BitVec.getElem_not, BitVec.getLsbD_eq_getElem hi] at * <;>
        generalize q[i] = x at * <;> generalize m[i] = y at * <;> generalize n[i] = z at * <;>
        revert h' <;> cases x <;> cases y <;> cases z <;> decide
    have hm : (Flag.mask .d) &&& f.mask = 0 := by cases f <;> first | rfl | exact absurd rfl h
    obtain ⟨h1, h2, h3, h4⟩ := key (Flag.mask .d) f.mask p hm
    cases b <;> cases c <;> simp only [setFlag, if_true, if_false, Bool.false_eq_true] <;> assumption

variable {g : Byte → Byte} {w : Ppu}

@[simp] theorem relabel_a (s : State) : (relabel g w s).a = s.a := rfl
@[simp] theorem relabel_x (s : State) : (relabel g w s).x = s.x := rfl
@[simp] theorem relabel_y (s : State) : (relabel g w s).y = s.y := rfl
@[simp] theorem relabel_sp (s : State) : (relabel g w s).sp = s.sp := rfl
@[simp] theorem relabel_pc (s : State) : (relabel g w s).pc = s.pc := rfl
@[simp] theorem relabel_p (s : State) : (relabel g w s).p = g s.p := rfl
@[simp] theorem relabel_draws (s : State) : (relabel g w s).draws = s.draws := rfl
@[simp] theorem relabel_launch (s : State) : (relabel g w s).launch = s.launch := rfl
@[simp] theorem relabel_cyclesLeft (s : State) : (relabel g w s).cyclesLeft = s.cyclesLeft := rfl
@[simp] theorem relabel_nmiPending (s : State) : (relabel g w s).nmiPending = s.nmiPending := rfl
@[simp] theorem relabel_bankHi (s : State) : (relabel g w s).bankHi = s.bankHi := rfl
@[simp] theorem relabel_irqPending (s : State) : (relabel g w s).irqPending = s.irqPending := rfl

theorem relabel_flag (hg : Unseen g) (f : Flag) (hf : f ≠ .d) (s : State) : (relabel g w s).flag f = s.flag f :=
  hg.get f s.p hf

/-- A change of registers other than P, of the countdown and of the draws commutes with the relabelling. -/
theorem relabel_change (s : State) (a x y sp : Byte) (pc : Word) (n k : Nat) :
    { relabel g w s with a := a, x := x, y := y, sp := sp, pc := pc, cyclesLeft := n, draws := k } =
      relabel g w { s with a := a, x := x, y := y, sp := sp, pc := pc, cyclesLeft := n, draws := k } := rfl

/-! ### The Bus, the operands and the stack -/

@[simp] theorem relabel_translate (s : State) (a : Word) : (relabel g w s).translate a = s.translate a := rfl

@[simp] theorem relabel_peek (s : State) (a : Word) : (relabel g w s).peek a = s.peek a := by
  simp only [State.peek, State.stored, relabel_translate]
  cases s.translate a with
  | none => rfl
  | some c => cases c <;> rfl

@[simp] theorem relabel_afterRead (s : State) (a : Word) :
    (relabel g w s).afterRead a = relabel g w (s.afterRead a) := by
  simp only [State.afterRead, relabel_translate]
  cases s.translate a with
  | none => rfl
  | some c => cases c <;> rfl

@[simp] theorem relabel_busRead (s : State) (a : Word) :
    busRead a (relabel g w s) = ((busRead a s).1, relabel g w (busRead a s).2) := by
  simp only [busRead, relabel_peek, relabel_afterRead]

@[simp] theorem relabel_busWrite (s : State) (a : Word) (v : Byte) :
    busWrite a v (relabel g w s) = relabel g w (busWrite a v s) := by
  simp only [busWrite, relabel_translate]
  cases s.translate a with
  | none => rfl
  | some c =>
    cases c with
    | bankHi k =>
      simp only [State.writeCell, relabel_bankHi]
      split <;> rfl
    | _ => rfl

@[simp] theorem relabel_readPair (s : State) (l h : Word) :
    readPair l h (relabel g w s) = ((readPair l h s).1, relabel g w (readPair l h s).2) := by
  simp only [readPair, relabel_busRead]

@[simp] theorem relabel_resolve (o : Operand) (s : State) :
    resolve o (relabel g w s) = ⟨(resolve o s).ea, (resolve o s).xm, relabel g w (resolve o s).state⟩ := by
  cases o <;> simp only [resolve, readZeroPagePointer, relabel_readPair] <;> rfl

@[simp] theorem relabel_load (o : Operand) (s : State) :
    load o (relabel g w s) = ⟨(load o s).value, (load o s).xm, relabel g w (load o s).state⟩ := by
  cases o <;> simp only [load, operandByte, relabel_resolve, relabel_peek, relabel_afterRead]

@[simp] theorem relabel_charge (base : Nat) (xm xi : Bool) (s : State) :
    charge base xm xi (relabel g w s) = relabel g w (charge base xm xi s) := rfl

@[simp] theorem relabel_push (v : Byte) (s : State) : push v (relabel g w s) = relabel g w (push v s) := by
  simp only [push, relabel_sp, relabel_busWrite]
  rfl

@[simp] theorem relabel_pushWord (v : Word) (s : State) :
    pushWord v (relabel g w s) = relabel g w (pushWord v s) := by
  simp only [pushWord, relabel_push]

@[simp] theorem relabel_pull (s : State) : pull (relabel g w s) = ((pull s).1, relabel g w (pull s).2) :=
  relabel_busRead { s with sp := s.sp + 1 } (stackAddress (s.sp + 1))

@[simp] theorem relabel_pullWord (s : State) :
    pullWord (relabel g w s) = ((pullWord s).1, relabel g w (pullWord s).2) := by
  simp only [pullWord, relabel_pull]

/-- With P as it stands, taking an exception and returning from one commute with the relabelling too. -/
theorem relabel_takeException (kind : InterruptKind) (s : State) :
    takeException kind (relabel id w s) = relabel id w (takeException kind s) := by
  have h₁ : pushWord (kind.returnAddress (relabel id w s).pc) (relabel id w s) =
      relabel id w (pushWord (kind.returnAddress s.pc) s) := relabel_pushWord _ s
  have h₂ : ∀ u : State, push (setBreak kind.breakPattern (relabel id w u).p)
      { relabel id w u with p := setBreak kind.breakPattern (relabel id w u).p } =
        relabel id w (push (setBreak kind.breakPattern u.p) { u with p := setBreak kind.breakPattern u.p }) :=
    fun u => relabel_push (g := id) (w := w) (setBreak kind.breakPattern u.p)
      { u with p := setBreak kind.breakPattern u.p }
  have h₃ : ∀ u : State, readPair kind.vector (kind.vector + 1)
      { relabel id w u with p := setFlag .i true (relabel id w u).p } =
        ((readPair kind.vector (kind.vector + 1) { u with p := setFlag .i true u.p }).1,
          relabel id w (readPair kind.vector (kind.vector + 1) { u with p := setFlag .i true u.p }).2) :=
    fun u => relabel_readPair (g := id) (w := w) { u with p := setFlag .i true u.p } _ _
  unfold takeException
  rw [h₁]
  dsimp only
  rw [h₂]
  rw [h₃]
  cases kind <;> rfl

theorem relabel_returnFromException (s : State) :
    returnFromException (relabel id w s) = relabel id w (returnFromException s) := by
  have hp : ∀ (u : State) (p : Byte), { relabel id w u with p := p } = relabel id w { u with p := p } :=
    fun _ _ => rfl
  simp only [returnFromException, relabel_pull, hp, relabel_pullWord]
  rfl

/-! ### The flag computations -/

theorem unseen_setZN (hg : Unseen g) (v p : Byte) : setZN v (g p) = g (setZN v p) := by
  simp only [setZN, hg.set _ _ _ (show Flag.z ≠ .d by decide), hg.set _ _ _ (show Flag.n ≠ .d by decide)]

theorem unseen_addFlags (hg : Unseen g) (a m p : Byte) : addFlags a m (g p) = g (addFlags a m p) := by
  simp only [addFlags, hg.get _ _ (show Flag.c ≠ .d by decide), hg.set _ _ _ (show Flag.c ≠ .d by decide),
    hg.set _ _ _ (show Flag.v ≠ .d by decide), unseen_setZN hg]

theorem unseen_compareFlags (hg : Unseen g) (r m p : Byte) : compareFlags r m (g p) = g (compareFlags r m p) := by
  simp only [compareFlags, hg.set _ _ _ (show Flag.c ≠ .d by decide), hg.set _ _ _ (show Flag.z ≠ .d by decide),
    hg.set _ _ _ (show Flag.n ≠ .d by decide)]

theorem unseen_bitFlags (hg : Unseen g) (a m p : Byte) : bitFlags a m (g p) = g (bitFlags a m p) := by
  simp only [bitFlags, hg.set _ _ _ (show Flag.v ≠ .d by decide), hg.set _ _ _ (show Flag.z ≠ .d by decide),
    hg.set _ _ _ (show Flag.n ≠ .d by decide)]

theorem unseen_shiftFlags (hg : Unseen g) (k : ShiftKind) (m p : Byte) :
    shiftFlags k m (g p) = g (shiftFlags k m p) := by
  simp only [shiftFlags, hg.get _ _ (show Flag.c ≠ .d by decide), hg.set _ _ _ (show Flag.c ≠ .d by decide),
    unseen_setZN hg]

theorem unseen_arrFlags (hg : Unseen g) (r p : Byte) : arrFlags r (g p) = g (arrFlags r p) := by
  simp only [arrFlags, hg.set _ _ _ (show Flag.c ≠ .d by decide), hg.set _ _ _ (show Flag.v ≠ .d by decide),
    unseen_setZN hg]

theorem unseen_axsFlags (hg : Unseen g) (t m p : Byte) : axsFlags t m (g p) = g (axsFlags t m p) := by
  simp only [axsFlags, hg.set _ _ _ (show Flag.c ≠ .d by decide), unseen_setZN hg]

/-! ### The data operations -/

theorem relabel_setA (hg : Unseen g) (m : Byte) (s : State) : setA m (relabel g w s) = relabel g w (setA m s) := by
  simp only [setA, relabel, unseen_setZN hg]

theorem relabel_setX (hg : Unseen g) (m : Byte) (s : State) : setX m (relabel g w s) = relabel g w (setX m s) := by
  simp only [setX, relabel, unseen_setZN hg]

theorem relabel_setY (hg : Unseen g) (m : Byte) (s : State) : setY m (relabel g w s) = relabel g w (setY m s) := by
  simp only [setY, relabel, unseen_setZN hg]

theorem relabel_setAX (hg : Unseen g) (m : Byte) (s : State) : setAX m (relabel g w s) = relabel g w (setAX m s) := by
  simp only [setAX, relabel, unseen_setZN hg]

theorem relabel_setAXS (hg : Unseen g) (m : Byte) (s : State) :
    setAXS m (relabel g w s) = relabel g w (setAXS m s) := by
  simp only [setAXS, relabel, unseen_setZN hg]

theorem relabel_setZNOf (hg : Unseen g) (m : Byte) (s : State) :
    setZNOf m (relabel g w s) = relabel g w (setZNOf m s) := by
  simp only [setZNOf, relabel, unseen_setZN hg]

theorem relabel_addWithCarry (hg : Unseen g) (m : Byte) (s : State) :
    addWithCarry m (relabel g w s) = relabel g w (addWithCarry m s) := by
  simp only [addWithCarry, relabel_flag hg .c (by decide)]
  simp only [relabel, unseen_addFlags hg]

theorem relabel_compareWith (hg : Unseen g) (r m : Byte) (s : State) :
    compareWith r m (relabel g w s) = relabel g w (compareWith r m s) := by
  simp only [compareWith, relabel, unseen_compareFlags hg]

theorem relabel_bitTest (hg : Unseen g) (m : Byte) (s : State) :
    bitTest m (relabel g w s) = relabel g w (bitTest m s) := by
  simp only [bitTest, relabel, unseen_bitFlags hg]

theorem relabel_shiftedByte (hg : Unseen g) (k : ShiftKind) (m : Byte) (s : State) :
    shiftedByte k m (relabel g w s) = shiftedByte k m s := by
  simp only [shiftedByte, relabel_flag hg .c (by decide)]

theorem relabel_shiftEffect (hg : Unseen g) (k : ShiftKind) (m : Byte) (s : State) :
    shiftEffect k m (relabel g w s) = relabel g w (shiftEffect k m s) := by
  simp only [shiftEffect, relabel, unseen_shiftFlags hg]

theorem relabel_shiftA (hg : Unseen g) (k : ShiftKind) (s : State) :
    shiftA k (relabel g w s) = relabel g w (shiftA k s) := by
  simp only [shiftA, relabel_flag hg .c (by decide)]
  simp only [relabel, unseen_shiftFlags hg]

theorem relabel_writeFlag (hg : Unseen g) (f : Flag) (hf : f ≠ .d) (b : Bool) (s : State) :
    writeFlag f b (relabel g w s) = relabel g w (writeFlag f b s) := by
  simp only [writeFlag, relabel, hg.set f b s.p hf]

theorem relabel_pullA (hg : Unseen g) (s : State) : pullA (relabel g w s) = relabel g w (pullA s) := by
  simp only [pullA, relabel_pull]
  simp only [relabel, unseen_setZN hg]

theorem relabel_shiftThen (hg : Unseen g) (k : ShiftKind) (f : Byte → Byte → Byte) (m : Byte) (s : State) :
    shiftThen k f m (relabel g w s) = relabel g w (shiftThen k f m s) := by
  simp only [shiftThen, relabel_shiftedByte hg, relabel_shiftEffect hg, relabel_setA hg, relabel_a]

theorem relabel_rotateThenAdd (hg : Unseen g) (m : Byte) (s : State) :
    rotateThenAdd m (relabel g w s) = relabel g w (rotateThenAdd m s) := by
  simp only [rotateThenAdd, relabel_shiftedByte hg, relabel_shiftEffect hg, relabel_addWithCarry hg]

/-! ### The shapes of execution -/

/-- A result with its next state relabelled. -/
def relabelResult (g : Byte → Byte) (w : Ppu) : Result → Result
  | .next t => .next (relabel g w t)
  | .fault f => .fault f
  | .refused r => .refused r

theorem relabel_readEffect (hg : Unseen g) (n : Mnemonic) (f : Byte → State → State) (hf : readEffect n = some f)
    (m : Byte) (s : State) : f m (relabel g w s) = relabel g w (f m s) := by
  cases n <;> cases hf
  case lda => exact relabel_setA hg _ s
  case and => exact relabel_setA hg (s.a &&& m) s
  case ora => exact relabel_setA hg (s.a ||| m) s
  case eor => exact relabel_setA hg (s.a ^^^ m) s
  case ldx => exact relabel_setX hg _ s
  case ldy => exact relabel_setY hg _ s
  case adc => exact relabel_addWithCarry hg _ s
  case sbc => exact relabel_addWithCarry hg _ s
  case bit => exact relabel_bitTest hg _ s
  case cmp => exact relabel_compareWith hg s.a m s
  case cpx => exact relabel_compareWith hg s.x m s
  case cpy => exact relabel_compareWith hg s.y m s

theorem relabel_storeValue (n : Mnemonic) (f : State → Byte) (hf : storeValue n = some f) (s : State) :
    f (relabel g w s) = f s := by
  cases n <;> cases hf <;> rfl

theorem relabel_modifyEffect (hg : Unseen g) (n : Mnemonic) (v : Byte → State → Byte) (f : Byte → State → State)
    (hf : modifyEffect n = some (v, f)) (m : Byte) (s : State) :
    v m (relabel g w s) = v m s ∧ f m (relabel g w s) = relabel g w (f m s) := by
  cases n <;> cases hf
  case inc | dec => exact ⟨rfl, relabel_setZNOf hg _ s⟩
  case asl | lsr | rol | ror => exact ⟨relabel_shiftedByte hg _ m s, relabel_shiftEffect hg _ m s⟩

theorem relabel_combinationEffect (hg : Unseen g) (n : Mnemonic) (v : Byte → State → Byte)
    (f : Byte → State → State) (hf : combinationEffect n = some (v, f)) (m : Byte) (s : State) :
    v m (relabel g w s) = v m s ∧ f m (relabel g w s) = relabel g w (f m s) := by
  cases n <;> cases hf
  case slo | rla | sre => exact ⟨relabel_shiftedByte hg _ m s, relabel_shiftThen hg _ _ m s⟩
  case rra => exact ⟨relabel_shiftedByte hg _ m s, relabel_rotateThenAdd hg m s⟩
  case dcp => exact ⟨rfl, relabel_compareWith hg s.a _ s⟩
  case isc => exact ⟨rfl, relabel_addWithCarry hg _ s⟩

theorem relabel_referenceRead (hg : Unseen g) (n : Mnemonic) (xi : Bool) (f : Byte → State → State)
    (hf : referenceRead n = some (xi, f)) (m : Byte) (s : State) : f m (relabel g w s) = relabel g w (f m s) := by
  cases n <;> cases hf
  case anc =>
    simp only [andCopyNToC, relabel, unseen_setZN hg, hg.set _ _ _ (show Flag.c ≠ .d by decide)]
  case alr =>
    simp only [andShiftRight, relabel, unseen_setZN hg, hg.set _ _ _ (show Flag.c ≠ .d by decide)]
  case arr =>
    simp only [andRotateRight, relabel_flag hg .c (by decide)]
    simp only [relabel, unseen_arrFlags hg]
  case xaa =>
    simp only [unstableXaa, relabel, hg.set _ _ _ (show Flag.z ≠ .d by decide),
      hg.set _ _ _ (show Flag.n ≠ .d by decide)]
  case axs => simp only [subtractToX, relabel, unseen_axsFlags hg]
  case las => exact relabel_setAXS hg m s

theorem relabel_unstableStoreEffect (n : Mnemonic) (f : State → State) (hf : unstableStoreEffect n = some f)
    (s : State) : f (relabel g w s) = relabel g w (f s) := by
  cases n <;> cases hf <;> rfl

/-- The instructions that write or read the whole of P or the Decimal flag (R232, R233, R238, R239, R242, R243). -/
def seesDecimal : List Mnemonic := [.php, .brk, .plp, .rti, .cld, .sed]

theorem relabel_impliedEffect (hg : Unseen g) (n : Mnemonic) (f : State → State) (hf : impliedEffect n = some f)
    (hn : g = id ∨ n ∉ seesDecimal) (s : State) : f (relabel g w s) = relabel g w (f s) := by
  cases n <;> cases hf
  case php | plp | cld | sed | brk | rti =>
    obtain rfl | hn := hn
    · first
        | exact relabel_takeException _ s
        | exact relabel_returnFromException s
        | rfl
        | (simp only [pullStatus, relabel_pull]; rfl)
        | exact relabel_push (g := id) (w := w) (setBreak InterruptKind.brk.breakPattern s.p)
            { s with p := setBreak InterruptKind.brk.breakPattern s.p }
    · exact absurd (by decide) hn
  case asl | lsr | rol | ror => exact relabel_shiftA hg _ s
  case tax => exact relabel_setX hg s.a s
  case tsx => exact relabel_setX hg s.sp s
  case inx => exact relabel_setX hg (s.x + 1) s
  case dex => exact relabel_setX hg (s.x - 1) s
  case tay => exact relabel_setY hg s.a s
  case iny => exact relabel_setY hg (s.y + 1) s
  case dey => exact relabel_setY hg (s.y - 1) s
  case txa => exact relabel_setA hg s.x s
  case tya => exact relabel_setA hg s.y s
  case txs | nop | kil => rfl
  case clc | sec | cli | sei | clv => exact relabel_writeFlag hg _ (by decide) _ s
  case pha => exact relabel_push s.a s
  case pla => exact relabel_pullA hg s
  case rts =>
    simp only [returnFromCall, relabel_pullWord]
    rfl

theorem relabel_execSkip (o : Operand) (base : Nat) (xi : Bool) (s : State) :
    execSkip o base xi (relabel g w s) = relabelResult g w (execSkip o base xi s) := by
  simp only [execSkip, relabel_resolve, relabel_charge, relabelResult]

theorem relabel_execRead (o : Operand) (base : Nat) (xi : Bool) (f : Byte → State → State)
    (hf : ∀ m s, f m (relabel g w s) = relabel g w (f m s)) (s : State) :
    execRead o base xi f (relabel g w s) = relabelResult g w (execRead o base xi f s) := by
  simp only [execRead, relabel_load, hf, relabel_charge, relabelResult]

theorem relabel_execStore (o : Operand) (base : Nat) (f : State → Byte) (hf : ∀ s, f (relabel g w s) = f s)
    (s : State) : execStore o base f (relabel g w s) = relabelResult g w (execStore o base f s) := by
  simp only [execStore, relabel_resolve, hf, relabel_busWrite, relabel_charge, relabelResult]

theorem relabel_execModify (o : Operand) (base : Nat) (v : Byte → State → Byte) (f : Byte → State → State)
    (hf : ∀ m s, v m (relabel g w s) = v m s ∧ f m (relabel g w s) = relabel g w (f m s)) (s : State) :
    execModify o base v f (relabel g w s) = relabelResult g w (execModify o base v f s) := by
  simp only [execModify, relabel_resolve, relabel_peek, relabel_afterRead, (hf _ _).1, (hf _ _).2, relabel_busWrite,
    relabel_charge, relabelResult]

theorem relabel_execUnstableStore (o : Operand) (base : Nat) (f : State → State)
    (hf : ∀ s, f (relabel g w s) = relabel g w (f s)) (s : State) :
    execUnstableStore o base f (relabel g w s) = relabelResult g w (execUnstableStore o base f s) := by
  have hd : ∀ (u : State) (n : Nat), { relabel g w u with draws := n } = relabel g w { u with draws := n } :=
    fun _ _ => rfl
  simp only [execUnstableStore, relabel_resolve, relabel_draws, hd, hf, relabel_busWrite, relabel_charge,
    relabelResult]

theorem relabel_execBranch (hg : Unseen g) (f : Flag) (hf : f ≠ .d) (b : Bool) (o : Byte) (base : Nat) (s : State) :
    execBranch f b o base (relabel g w s) = relabelResult g w (execBranch f b o base s) := by
  simp only [execBranch, relabel_flag hg f hf, relabel_resolve, relabelResult]
  split <;> rfl

/-- What no instruction looks at: with the PPU's counters and frame buffers changed, and the Decimal flag changed for the
instructions that neither read nor write it, every instruction does the same. -/
theorem exec_relabel (hg : Unseen g) (i : Instr) (hi : g = id ∨ i.mnemonic ∉ seesDecimal) (s : State) :
    exec i (relabel g w s) = relabelResult g w (exec i s) := by
  rcases instr_shape i with ⟨f, hf, ho⟩ | ⟨o, ho, h⟩
  · rw [exec_implied i s f hf ho, exec_implied i (relabel g w s) f hf ho]
    simp only [execImplied, relabel_impliedEffect hg _ f hf hi, relabel_charge, relabelResult]
  rcases h with ⟨f, hf⟩ | ⟨f, hf⟩ | ⟨v, f, hf⟩ | hm | hm | hm | ⟨f, b, hf⟩ | ⟨xi, hx, h⟩
  · rw [exec_read i s f o hf ho, exec_read i (relabel g w s) f o hf ho]
    exact relabel_execRead _ _ _ _ (relabel_readEffect hg _ f hf) s
  · rw [exec_store i s f o hf ho, exec_store i (relabel g w s) f o hf ho]
    exact relabel_execStore _ _ _ (relabel_storeValue _ f hf) s
  · rw [exec_modify i s v f o hf ho, exec_modify i (relabel g w s) v f o hf ho]
    exact relabel_execModify _ _ _ _ (relabel_modifyEffect hg _ v f hf) s
  · rw [exec_skip i s o hm ho, exec_skip i (relabel g w s) o hm ho]
    exact relabel_execSkip _ _ _ s
  · rw [exec_jump i s o hm ho, exec_jump i (relabel g w s) o hm ho]
    simp only [execJump, relabel_resolve, relabelResult]
    rfl
  · rw [exec_call i s o hm ho, exec_call i (relabel g w s) o hm ho]
    simp only [execCall, relabel_resolve, relabel_pc, relabel_pushWord, relabelResult]
    rfl
  · obtain ⟨o₁, h₁, e₁⟩ := exec_branch i s f b hf
    obtain ⟨o₂, h₂, e₂⟩ := exec_branch i (relabel g w s) f b hf
    obtain rfl : o₁ = o₂ := by rw [h₁] at h₂; cases h₂; rfl
    have hd : f ≠ .d := by
      rintro rfl
      cases hm : i.mnemonic <;> rw [hm] at hf <;> cases hf
    rw [e₁, e₂]
    exact relabel_execBranch hg f hd b o₁ _ s
  cases hs : s.launch.illegal with
  | stub =>
    rw [exec_stub i s xi o hx ho hs, exec_stub i (relabel g w s) xi o hx ho hs]
    exact relabel_execSkip _ _ _ s
  | reference =>
    rcases h with ⟨v, f, hf⟩ | hm | ⟨xi, f, hf⟩ | hm | ⟨f, hf⟩
    · rw [exec_combination i s v f o hf ho hs, exec_combination i (relabel g w s) v f o hf ho hs]
      exact relabel_execModify _ _ _ _ (relabel_combinationEffect hg _ v f hf) s
    · rw [exec_sax i s o hm ho hs, exec_sax i (relabel g w s) o hm ho hs]
      exact relabel_execStore _ _ _ (fun _ => rfl) s
    · rw [exec_referenceRead i s xi f o hf ho hs, exec_referenceRead i (relabel g w s) xi f o hf ho hs]
      exact relabel_execRead _ _ _ _ (relabel_referenceRead hg _ xi f hf) s
    · by_cases hb : ∃ b, o = .imm b
      · obtain ⟨b, rfl⟩ := hb
        obtain rfl : i = .laxImm b := by cases i <;> cases hm <;> cases ho; rfl
        rw [exec_laxImm b s hs, exec_laxImm b (relabel g w s) hs, relabelResult, ← relabel_charge, unstableLoadAX,
          unstableLoadAX, ← relabel_setAX hg, relabel_load]
        rfl
      · have hn : ∀ b, o ≠ .imm b := fun b h => hb ⟨b, h⟩
        rw [exec_lax i s o hm ho hn hs, exec_lax i (relabel g w s) o hm ho hn hs]
        exact relabel_execRead _ _ _ _ (relabel_setAX hg) s
    · rw [exec_unstableStore i s f o hf ho hs, exec_unstableStore i (relabel g w s) f o hf ho hs]
      exact relabel_execUnstableStore _ _ _ (relabel_unstableStoreEffect _ f hf) s

/-! ### Fetching and the CPU clock -/

theorem relabel_setPc (s : State) (pc : Word) : { relabel g w s with pc := pc } = relabel g w { s with pc := pc } := rfl

theorem relabel_fetchBytes (n : Nat) (s : State) :
    fetchBytes n (relabel g w s) = ((fetchBytes n s).1, relabel g w (fetchBytes n s).2) := by
  induction n generalizing s with
  | zero => rfl
  | succ n ih =>
    simp only [fetchBytes, relabel_pc, relabel_busRead]
    rw [relabel_setPc (busRead s.pc s).2 ((busRead s.pc s).2.pc + 1), ih]

theorem relabel_fetchOperands (op : Byte) (s : State) :
    fetchOperands op (relabel g w s) = ((fetchOperands op s).1, relabel g w (fetchOperands op s).2) := by
  simp only [fetchOperands, relabel_pc, relabel_peek, relabel_fetchBytes]
  split <;> rfl

theorem relabel_fetchInstruction (s : State) :
    fetchInstruction (relabel g w s) = ((fetchInstruction s).1, relabel g w (fetchInstruction s).2) := by
  simp only [fetchInstruction, relabel_pc, relabel_busRead]
  rw [relabel_setPc (busRead s.pc s).2 ((busRead s.pc s).2.pc + 1), relabel_fetchOperands]

theorem relabel_fetch (s : State) : fetch (relabel g w s) = (fetch s).map fun r => (r.1, relabel g w r.2) := by
  simp only [fetch, relabel_fetchInstruction]
  split <;> simp_all [Except.map]

/-- R78, R341: a CPU clock sees of the PPU nothing that a PPU clock changes. -/
theorem cpuClock_relabel (s : State) : cpuClock (relabel id w s) = relabelResult id w (cpuClock s) := by
  have hcount : ∀ r, countDown (relabelResult id w r) = relabelResult id w (countDown r) := by
    intro r
    cases r <;> rfl
  have hsettle : settleMaskedIrq (relabel id w s) = relabel id w (settleMaskedIrq s) := by
    unfold settleMaskedIrq
    simp only [relabel_launch, relabel_irqPending, relabel_flag unseen_id .i (by decide)]
    split
    · rfl
    · split <;> rfl
  have hack : ∀ kind, acknowledge kind (relabel id w s) = relabel id w (acknowledge kind s) := by
    intro kind
    simp only [acknowledge, relabel_takeException]
    rfl
  have hrun : ∀ u, fetchAndExecute (relabel id w u) = relabelResult id w (fetchAndExecute u) := by
    intro u
    simp only [fetchAndExecute, relabel_fetch]
    cases fetch u with
    | error r => rfl
    | ok r => exact exec_relabel unseen_id r.1 (.inl rfl) r.2
  unfold cpuClock
  rw [← hcount]
  congr 1
  by_cases h0 : s.cyclesLeft = 0
  · rw [if_pos (show (relabel id w s).cyclesLeft = 0 from h0), if_pos h0, atBoundary, atBoundary, hsettle, hrun, hack,
      hack, show (relabel id w s).acceptsNmi = s.acceptsNmi from rfl,
      show (relabel id w s).acceptsIrq = s.acceptsIrq from rfl]
    cases s.acceptsNmi <;> cases s.acceptsIrq <;> rfl
  · rw [if_neg (show ¬(relabel id w s).cyclesLeft = 0 from h0), if_neg h0]
    rfl

/-- R341: a PPU clock neither sees nor changes the stores that a Bus access can see. -/
theorem clock_withStores (w u : Ppu) (size : Nat) :
    (w.withStores u).clock size = ((w.clock size).1.withStores u, (w.clock size).2) := by
  simp only [Ppu.clock, Ppu.advance, Ppu.paint, Ppu.paintedPixel, Ppu.withStores]
  by_cases h1 : w.cycle + 1 = Config.ppuCyclesPerLine
  · by_cases h2 : w.scanline + 1 = (Config.ppuLinesPerFrame : Int) - 1
    · simp only [h1, h2, if_true]
    · simp only [h1, h2, if_true, if_false]
  · simp only [h1, if_false]

end Sys2Proof.Machine
end

