-- ==== Sys2Proof/Laws/State.lean ====
section
/-! SUPPORT. Each field of the state after each named update, so that no proof unfolds a record update. -/

namespace Sys2Proof.Machine

/-! ### charge -/

@[simp] theorem charge_a (base : Nat) (xm xi : Bool) (s : State) : (charge base xm xi s).a = s.a := rfl
@[simp] theorem charge_x (base : Nat) (xm xi : Bool) (s : State) : (charge base xm xi s).x = s.x := rfl
@[simp] theorem charge_y (base : Nat) (xm xi : Bool) (s : State) : (charge base xm xi s).y = s.y := rfl
@[simp] theorem charge_sp (base : Nat) (xm xi : Bool) (s : State) : (charge base xm xi s).sp = s.sp := rfl
@[simp] theorem charge_p (base : Nat) (xm xi : Bool) (s : State) : (charge base xm xi s).p = s.p := rfl
@[simp] theorem charge_pc (base : Nat) (xm xi : Bool) (s : State) : (charge base xm xi s).pc = s.pc := rfl
@[simp] theorem charge_cyclesLeft (base : Nat) (xm xi : Bool) (s : State) : (charge base xm xi s).cyclesLeft = base + (xm && xi).toNat := rfl
@[simp] theorem charge_nmiPending (base : Nat) (xm xi : Bool) (s : State) : (charge base xm xi s).nmiPending = s.nmiPending := rfl
@[simp] theorem charge_irqPending (base : Nat) (xm xi : Bool) (s : State) : (charge base xm xi s).irqPending = s.irqPending := rfl
@[simp] theorem charge_slots (base : Nat) (xm xi : Bool) (s : State) : (charge base xm xi s).slots = s.slots := rfl
@[simp] theorem charge_flat (base : Nat) (xm xi : Bool) (s : State) : (charge base xm xi s).flat = s.flat := rfl
@[simp] theorem charge_ram (base : Nat) (xm xi : Bool) (s : State) : (charge base xm xi s).ram = s.ram := rfl
@[simp] theorem charge_bankLo (base : Nat) (xm xi : Bool) (s : State) : (charge base xm xi s).bankLo = s.bankLo := rfl
@[simp] theorem charge_bankHi (base : Nat) (xm xi : Bool) (s : State) : (charge base xm xi s).bankHi = s.bankHi := rfl
@[simp] theorem charge_ppu (base : Nat) (xm xi : Bool) (s : State) : (charge base xm xi s).ppu = s.ppu := rfl
@[simp] theorem charge_frameDone (base : Nat) (xm xi : Bool) (s : State) : (charge base xm xi s).frameDone = s.frameDone := rfl
@[simp] theorem charge_draws (base : Nat) (xm xi : Bool) (s : State) : (charge base xm xi s).draws = s.draws := rfl
@[simp] theorem charge_launch (base : Nat) (xm xi : Bool) (s : State) : (charge base xm xi s).launch = s.launch := rfl

/-! ### setA -/

@[simp] theorem setA_a (m : Byte) (s : State) : (setA m s).a = m := rfl
@[simp] theorem setA_x (m : Byte) (s : State) : (setA m s).x = s.x := rfl
@[simp] theorem setA_y (m : Byte) (s : State) : (setA m s).y = s.y := rfl
@[simp] theorem setA_sp (m : Byte) (s : State) : (setA m s).sp = s.sp := rfl
@[simp] theorem setA_p (m : Byte) (s : State) : (setA m s).p = setZN m s.p := rfl
@[simp] theorem setA_pc (m : Byte) (s : State) : (setA m s).pc = s.pc := rfl
@[simp] theorem setA_cyclesLeft (m : Byte) (s : State) : (setA m s).cyclesLeft = s.cyclesLeft := rfl
@[simp] theorem setA_nmiPending (m : Byte) (s : State) : (setA m s).nmiPending = s.nmiPending := rfl
@[simp] theorem setA_irqPending (m : Byte) (s : State) : (setA m s).irqPending = s.irqPending := rfl
@[simp] theorem setA_slots (m : Byte) (s : State) : (setA m s).slots = s.slots := rfl
@[simp] theorem setA_flat (m : Byte) (s : State) : (setA m s).flat = s.flat := rfl
@[simp] theorem setA_ram (m : Byte) (s : State) : (setA m s).ram = s.ram := rfl
@[simp] theorem setA_bankLo (m : Byte) (s : State) : (setA m s).bankLo = s.bankLo := rfl
@[simp] theorem setA_bankHi (m : Byte) (s : State) : (setA m s).bankHi = s.bankHi := rfl
@[simp] theorem setA_ppu (m : Byte) (s : State) : (setA m s).ppu = s.ppu := rfl
@[simp] theorem setA_frameDone (m : Byte) (s : State) : (setA m s).frameDone = s.frameDone := rfl
@[simp] theorem setA_draws (m : Byte) (s : State) : (setA m s).draws = s.draws := rfl
@[simp] theorem setA_launch (m : Byte) (s : State) : (setA m s).launch = s.launch := rfl

/-! ### setX -/

@[simp] theorem setX_a (m : Byte) (s : State) : (setX m s).a = s.a := rfl
@[simp] theorem setX_x (m : Byte) (s : State) : (setX m s).x = m := rfl
@[simp] theorem setX_y (m : Byte) (s : State) : (setX m s).y = s.y := rfl
@[simp] theorem setX_sp (m : Byte) (s : State) : (setX m s).sp = s.sp := rfl
@[simp] theorem setX_p (m : Byte) (s : State) : (setX m s).p = setZN m s.p := rfl
@[simp] theorem setX_pc (m : Byte) (s : State) : (setX m s).pc = s.pc := rfl
@[simp] theorem setX_cyclesLeft (m : Byte) (s : State) : (setX m s).cyclesLeft = s.cyclesLeft := rfl
@[simp] theorem setX_nmiPending (m : Byte) (s : State) : (setX m s).nmiPending = s.nmiPending := rfl
@[simp] theorem setX_irqPending (m : Byte) (s : State) : (setX m s).irqPending = s.irqPending := rfl
@[simp] theorem setX_slots (m : Byte) (s : State) : (setX m s).slots = s.slots := rfl
@[simp] theorem setX_flat (m : Byte) (s : State) : (setX m s).flat = s.flat := rfl
@[simp] theorem setX_ram (m : Byte) (s : State) : (setX m s).ram = s.ram := rfl
@[simp] theorem setX_bankLo (m : Byte) (s : State) : (setX m s).bankLo = s.bankLo := rfl
@[simp] theorem setX_bankHi (m : Byte) (s : State) : (setX m s).bankHi = s.bankHi := rfl
@[simp] theorem setX_ppu (m : Byte) (s : State) : (setX m s).ppu = s.ppu := rfl
@[simp] theorem setX_frameDone (m : Byte) (s : State) : (setX m s).frameDone = s.frameDone := rfl
@[simp] theorem setX_draws (m : Byte) (s : State) : (setX m s).draws = s.draws := rfl
@[simp] theorem setX_launch (m : Byte) (s : State) : (setX m s).launch = s.launch := rfl

/-! ### setY -/

@[simp] theorem setY_a (m : Byte) (s : State) : (setY m s).a = s.a := rfl
@[simp] theorem setY_x (m : Byte) (s : State) : (setY m s).x = s.x := rfl
@[simp] theorem setY_y (m : Byte) (s : State) : (setY m s).y = m := rfl
@[simp] theorem setY_sp (m : Byte) (s : State) : (setY m s).sp = s.sp := rfl
@[simp] theorem setY_p (m : Byte) (s : State) : (setY m s).p = setZN m s.p := rfl
@[simp] theorem setY_pc (m : Byte) (s : State) : (setY m s).pc = s.pc := rfl
@[simp] theorem setY_cyclesLeft (m : Byte) (s : State) : (setY m s).cyclesLeft = s.cyclesLeft := rfl
@[simp] theorem setY_nmiPending (m : Byte) (s : State) : (setY m s).nmiPending = s.nmiPending := rfl
@[simp] theorem setY_irqPending (m : Byte) (s : State) : (setY m s).irqPending = s.irqPending := rfl
@[simp] theorem setY_slots (m : Byte) (s : State) : (setY m s).slots = s.slots := rfl
@[simp] theorem setY_flat (m : Byte) (s : State) : (setY m s).flat = s.flat := rfl
@[simp] theorem setY_ram (m : Byte) (s : State) : (setY m s).ram = s.ram := rfl
@[simp] theorem setY_bankLo (m : Byte) (s : State) : (setY m s).bankLo = s.bankLo := rfl
@[simp] theorem setY_bankHi (m : Byte) (s : State) : (setY m s).bankHi = s.bankHi := rfl
@[simp] theorem setY_ppu (m : Byte) (s : State) : (setY m s).ppu = s.ppu := rfl
@[simp] theorem setY_frameDone (m : Byte) (s : State) : (setY m s).frameDone = s.frameDone := rfl
@[simp] theorem setY_draws (m : Byte) (s : State) : (setY m s).draws = s.draws := rfl
@[simp] theorem setY_launch (m : Byte) (s : State) : (setY m s).launch = s.launch := rfl

/-! ### setStackFromX -/

@[simp] theorem setStackFromX_a (s : State) : (setStackFromX s).a = s.a := rfl
@[simp] theorem setStackFromX_x (s : State) : (setStackFromX s).x = s.x := rfl
@[simp] theorem setStackFromX_y (s : State) : (setStackFromX s).y = s.y := rfl
@[simp] theorem setStackFromX_sp (s : State) : (setStackFromX s).sp = s.x := rfl
@[simp] theorem setStackFromX_p (s : State) : (setStackFromX s).p = s.p := rfl
@[simp] theorem setStackFromX_pc (s : State) : (setStackFromX s).pc = s.pc := rfl
@[simp] theorem setStackFromX_cyclesLeft (s : State) : (setStackFromX s).cyclesLeft = s.cyclesLeft := rfl
@[simp] theorem setStackFromX_nmiPending (s : State) : (setStackFromX s).nmiPending = s.nmiPending := rfl
@[simp] theorem setStackFromX_irqPending (s : State) : (setStackFromX s).irqPending = s.irqPending := rfl
@[simp] theorem setStackFromX_slots (s : State) : (setStackFromX s).slots = s.slots := rfl
@[simp] theorem setStackFromX_flat (s : State) : (setStackFromX s).flat = s.flat := rfl
@[simp] theorem setStackFromX_ram (s : State) : (setStackFromX s).ram = s.ram := rfl
@[simp] theorem setStackFromX_bankLo (s : State) : (setStackFromX s).bankLo = s.bankLo := rfl
@[simp] theorem setStackFromX_bankHi (s : State) : (setStackFromX s).bankHi = s.bankHi := rfl
@[simp] theorem setStackFromX_ppu (s : State) : (setStackFromX s).ppu = s.ppu := rfl
@[simp] theorem setStackFromX_frameDone (s : State) : (setStackFromX s).frameDone = s.frameDone := rfl
@[simp] theorem setStackFromX_draws (s : State) : (setStackFromX s).draws = s.draws := rfl
@[simp] theorem setStackFromX_launch (s : State) : (setStackFromX s).launch = s.launch := rfl

/-! ### addWithCarry -/

@[simp] theorem addWithCarry_a (m : Byte) (s : State) : (addWithCarry m s).a = addResult s.a m (s.flag .c) := rfl
@[simp] theorem addWithCarry_x (m : Byte) (s : State) : (addWithCarry m s).x = s.x := rfl
@[simp] theorem addWithCarry_y (m : Byte) (s : State) : (addWithCarry m s).y = s.y := rfl
@[simp] theorem addWithCarry_sp (m : Byte) (s : State) : (addWithCarry m s).sp = s.sp := rfl
@[simp] theorem addWithCarry_p (m : Byte) (s : State) : (addWithCarry m s).p = addFlags s.a m s.p := rfl
@[simp] theorem addWithCarry_pc (m : Byte) (s : State) : (addWithCarry m s).pc = s.pc := rfl
@[simp] theorem addWithCarry_cyclesLeft (m : Byte) (s : State) : (addWithCarry m s).cyclesLeft = s.cyclesLeft := rfl
@[simp] theorem addWithCarry_nmiPending (m : Byte) (s : State) : (addWithCarry m s).nmiPending = s.nmiPending := rfl
@[simp] theorem addWithCarry_irqPending (m : Byte) (s : State) : (addWithCarry m s).irqPending = s.irqPending := rfl
@[simp] theorem addWithCarry_slots (m : Byte) (s : State) : (addWithCarry m s).slots = s.slots := rfl
@[simp] theorem addWithCarry_flat (m : Byte) (s : State) : (addWithCarry m s).flat = s.flat := rfl
@[simp] theorem addWithCarry_ram (m : Byte) (s : State) : (addWithCarry m s).ram = s.ram := rfl
@[simp] theorem addWithCarry_bankLo (m : Byte) (s : State) : (addWithCarry m s).bankLo = s.bankLo := rfl
@[simp] theorem addWithCarry_bankHi (m : Byte) (s : State) : (addWithCarry m s).bankHi = s.bankHi := rfl
@[simp] theorem addWithCarry_ppu (m : Byte) (s : State) : (addWithCarry m s).ppu = s.ppu := rfl
@[simp] theorem addWithCarry_frameDone (m : Byte) (s : State) : (addWithCarry m s).frameDone = s.frameDone := rfl
@[simp] theorem addWithCarry_draws (m : Byte) (s : State) : (addWithCarry m s).draws = s.draws := rfl
@[simp] theorem addWithCarry_launch (m : Byte) (s : State) : (addWithCarry m s).launch = s.launch := rfl

/-! ### compareWith -/

@[simp] theorem compareWith_a (r m : Byte) (s : State) : (compareWith r m s).a = s.a := rfl
@[simp] theorem compareWith_x (r m : Byte) (s : State) : (compareWith r m s).x = s.x := rfl
@[simp] theorem compareWith_y (r m : Byte) (s : State) : (compareWith r m s).y = s.y := rfl
@[simp] theorem compareWith_sp (r m : Byte) (s : State) : (compareWith r m s).sp = s.sp := rfl
@[simp] theorem compareWith_p (r m : Byte) (s : State) : (compareWith r m s).p = compareFlags r m s.p := rfl
@[simp] theorem compareWith_pc (r m : Byte) (s : State) : (compareWith r m s).pc = s.pc := rfl
@[simp] theorem compareWith_cyclesLeft (r m : Byte) (s : State) : (compareWith r m s).cyclesLeft = s.cyclesLeft := rfl
@[simp] theorem compareWith_nmiPending (r m : Byte) (s : State) : (compareWith r m s).nmiPending = s.nmiPending := rfl
@[simp] theorem compareWith_irqPending (r m : Byte) (s : State) : (compareWith r m s).irqPending = s.irqPending := rfl
@[simp] theorem compareWith_slots (r m : Byte) (s : State) : (compareWith r m s).slots = s.slots := rfl
@[simp] theorem compareWith_flat (r m : Byte) (s : State) : (compareWith r m s).flat = s.flat := rfl
@[simp] theorem compareWith_ram (r m : Byte) (s : State) : (compareWith r m s).ram = s.ram := rfl
@[simp] theorem compareWith_bankLo (r m : Byte) (s : State) : (compareWith r m s).bankLo = s.bankLo := rfl
@[simp] theorem compareWith_bankHi (r m : Byte) (s : State) : (compareWith r m s).bankHi = s.bankHi := rfl
@[simp] theorem compareWith_ppu (r m : Byte) (s : State) : (compareWith r m s).ppu = s.ppu := rfl
@[simp] theorem compareWith_frameDone (r m : Byte) (s : State) : (compareWith r m s).frameDone = s.frameDone := rfl
@[simp] theorem compareWith_draws (r m : Byte) (s : State) : (compareWith r m s).draws = s.draws := rfl
@[simp] theorem compareWith_launch (r m : Byte) (s : State) : (compareWith r m s).launch = s.launch := rfl

/-! ### bitTest -/

@[simp] theorem bitTest_a (m : Byte) (s : State) : (bitTest m s).a = s.a := rfl
@[simp] theorem bitTest_x (m : Byte) (s : State) : (bitTest m s).x = s.x := rfl
@[simp] theorem bitTest_y (m : Byte) (s : State) : (bitTest m s).y = s.y := rfl
@[simp] theorem bitTest_sp (m : Byte) (s : State) : (bitTest m s).sp = s.sp := rfl
@[simp] theorem bitTest_p (m : Byte) (s : State) : (bitTest m s).p = bitFlags s.a m s.p := rfl
@[simp] theorem bitTest_pc (m : Byte) (s : State) : (bitTest m s).pc = s.pc := rfl
@[simp] theorem bitTest_cyclesLeft (m : Byte) (s : State) : (bitTest m s).cyclesLeft = s.cyclesLeft := rfl
@[simp] theorem bitTest_nmiPending (m : Byte) (s : State) : (bitTest m s).nmiPending = s.nmiPending := rfl
@[simp] theorem bitTest_irqPending (m : Byte) (s : State) : (bitTest m s).irqPending = s.irqPending := rfl
@[simp] theorem bitTest_slots (m : Byte) (s : State) : (bitTest m s).slots = s.slots := rfl
@[simp] theorem bitTest_flat (m : Byte) (s : State) : (bitTest m s).flat = s.flat := rfl
@[simp] theorem bitTest_ram (m : Byte) (s : State) : (bitTest m s).ram = s.ram := rfl
@[simp] theorem bitTest_bankLo (m : Byte) (s : State) : (bitTest m s).bankLo = s.bankLo := rfl
@[simp] theorem bitTest_bankHi (m : Byte) (s : State) : (bitTest m s).bankHi = s.bankHi := rfl
@[simp] theorem bitTest_ppu (m : Byte) (s : State) : (bitTest m s).ppu = s.ppu := rfl
@[simp] theorem bitTest_frameDone (m : Byte) (s : State) : (bitTest m s).frameDone = s.frameDone := rfl
@[simp] theorem bitTest_draws (m : Byte) (s : State) : (bitTest m s).draws = s.draws := rfl
@[simp] theorem bitTest_launch (m : Byte) (s : State) : (bitTest m s).launch = s.launch := rfl

/-! ### setZNOf -/

@[simp] theorem setZNOf_a (v : Byte) (s : State) : (setZNOf v s).a = s.a := rfl
@[simp] theorem setZNOf_x (v : Byte) (s : State) : (setZNOf v s).x = s.x := rfl
@[simp] theorem setZNOf_y (v : Byte) (s : State) : (setZNOf v s).y = s.y := rfl
@[simp] theorem setZNOf_sp (v : Byte) (s : State) : (setZNOf v s).sp = s.sp := rfl
@[simp] theorem setZNOf_p (v : Byte) (s : State) : (setZNOf v s).p = setZN v s.p := rfl
@[simp] theorem setZNOf_pc (v : Byte) (s : State) : (setZNOf v s).pc = s.pc := rfl
@[simp] theorem setZNOf_cyclesLeft (v : Byte) (s : State) : (setZNOf v s).cyclesLeft = s.cyclesLeft := rfl
@[simp] theorem setZNOf_nmiPending (v : Byte) (s : State) : (setZNOf v s).nmiPending = s.nmiPending := rfl
@[simp] theorem setZNOf_irqPending (v : Byte) (s : State) : (setZNOf v s).irqPending = s.irqPending := rfl
@[simp] theorem setZNOf_slots (v : Byte) (s : State) : (setZNOf v s).slots = s.slots := rfl
@[simp] theorem setZNOf_flat (v : Byte) (s : State) : (setZNOf v s).flat = s.flat := rfl
@[simp] theorem setZNOf_ram (v : Byte) (s : State) : (setZNOf v s).ram = s.ram := rfl
@[simp] theorem setZNOf_bankLo (v : Byte) (s : State) : (setZNOf v s).bankLo = s.bankLo := rfl
@[simp] theorem setZNOf_bankHi (v : Byte) (s : State) : (setZNOf v s).bankHi = s.bankHi := rfl
@[simp] theorem setZNOf_ppu (v : Byte) (s : State) : (setZNOf v s).ppu = s.ppu := rfl
@[simp] theorem setZNOf_frameDone (v : Byte) (s : State) : (setZNOf v s).frameDone = s.frameDone := rfl
@[simp] theorem setZNOf_draws (v : Byte) (s : State) : (setZNOf v s).draws = s.draws := rfl
@[simp] theorem setZNOf_launch (v : Byte) (s : State) : (setZNOf v s).launch = s.launch := rfl

/-! ### shiftEffect -/

@[simp] theorem shiftEffect_a (k : ShiftKind) (m : Byte) (s : State) : (shiftEffect k m s).a = s.a := rfl
@[simp] theorem shiftEffect_x (k : ShiftKind) (m : Byte) (s : State) : (shiftEffect k m s).x = s.x := rfl
@[simp] theorem shiftEffect_y (k : ShiftKind) (m : Byte) (s : State) : (shiftEffect k m s).y = s.y := rfl
@[simp] theorem shiftEffect_sp (k : ShiftKind) (m : Byte) (s : State) : (shiftEffect k m s).sp = s.sp := rfl
@[simp] theorem shiftEffect_p (k : ShiftKind) (m : Byte) (s : State) : (shiftEffect k m s).p = shiftFlags k m s.p := rfl
@[simp] theorem shiftEffect_pc (k : ShiftKind) (m : Byte) (s : State) : (shiftEffect k m s).pc = s.pc := rfl
@[simp] theorem shiftEffect_cyclesLeft (k : ShiftKind) (m : Byte) (s : State) : (shiftEffect k m s).cyclesLeft = s.cyclesLeft := rfl
@[simp] theorem shiftEffect_nmiPending (k : ShiftKind) (m : Byte) (s : State) : (shiftEffect k m s).nmiPending = s.nmiPending := rfl
@[simp] theorem shiftEffect_irqPending (k : ShiftKind) (m : Byte) (s : State) : (shiftEffect k m s).irqPending = s.irqPending := rfl
@[simp] theorem shiftEffect_slots (k : ShiftKind) (m : Byte) (s : State) : (shiftEffect k m s).slots = s.slots := rfl
@[simp] theorem shiftEffect_flat (k : ShiftKind) (m : Byte) (s : State) : (shiftEffect k m s).flat = s.flat := rfl
@[simp] theorem shiftEffect_ram (k : ShiftKind) (m : Byte) (s : State) : (shiftEffect k m s).ram = s.ram := rfl
@[simp] theorem shiftEffect_bankLo (k : ShiftKind) (m : Byte) (s : State) : (shiftEffect k m s).bankLo = s.bankLo := rfl
@[simp] theorem shiftEffect_bankHi (k : ShiftKind) (m : Byte) (s : State) : (shiftEffect k m s).bankHi = s.bankHi := rfl
@[simp] theorem shiftEffect_ppu (k : ShiftKind) (m : Byte) (s : State) : (shiftEffect k m s).ppu = s.ppu := rfl
@[simp] theorem shiftEffect_frameDone (k : ShiftKind) (m : Byte) (s : State) : (shiftEffect k m s).frameDone = s.frameDone := rfl
@[simp] theorem shiftEffect_draws (k : ShiftKind) (m : Byte) (s : State) : (shiftEffect k m s).draws = s.draws := rfl
@[simp] theorem shiftEffect_launch (k : ShiftKind) (m : Byte) (s : State) : (shiftEffect k m s).launch = s.launch := rfl

/-! ### shiftA -/

@[simp] theorem shiftA_a (k : ShiftKind) (s : State) : (shiftA k s).a = shiftResult k s.a (s.flag .c) := rfl
@[simp] theorem shiftA_x (k : ShiftKind) (s : State) : (shiftA k s).x = s.x := rfl
@[simp] theorem shiftA_y (k : ShiftKind) (s : State) : (shiftA k s).y = s.y := rfl
@[simp] theorem shiftA_sp (k : ShiftKind) (s : State) : (shiftA k s).sp = s.sp := rfl
@[simp] theorem shiftA_p (k : ShiftKind) (s : State) : (shiftA k s).p = shiftFlags k s.a s.p := rfl
@[simp] theorem shiftA_pc (k : ShiftKind) (s : State) : (shiftA k s).pc = s.pc := rfl
@[simp] theorem shiftA_cyclesLeft (k : ShiftKind) (s : State) : (shiftA k s).cyclesLeft = s.cyclesLeft := rfl
@[simp] theorem shiftA_nmiPending (k : ShiftKind) (s : State) : (shiftA k s).nmiPending = s.nmiPending := rfl
@[simp] theorem shiftA_irqPending (k : ShiftKind) (s : State) : (shiftA k s).irqPending = s.irqPending := rfl
@[simp] theorem shiftA_slots (k : ShiftKind) (s : State) : (shiftA k s).slots = s.slots := rfl
@[simp] theorem shiftA_flat (k : ShiftKind) (s : State) : (shiftA k s).flat = s.flat := rfl
@[simp] theorem shiftA_ram (k : ShiftKind) (s : State) : (shiftA k s).ram = s.ram := rfl
@[simp] theorem shiftA_bankLo (k : ShiftKind) (s : State) : (shiftA k s).bankLo = s.bankLo := rfl
@[simp] theorem shiftA_bankHi (k : ShiftKind) (s : State) : (shiftA k s).bankHi = s.bankHi := rfl
@[simp] theorem shiftA_ppu (k : ShiftKind) (s : State) : (shiftA k s).ppu = s.ppu := rfl
@[simp] theorem shiftA_frameDone (k : ShiftKind) (s : State) : (shiftA k s).frameDone = s.frameDone := rfl
@[simp] theorem shiftA_draws (k : ShiftKind) (s : State) : (shiftA k s).draws = s.draws := rfl
@[simp] theorem shiftA_launch (k : ShiftKind) (s : State) : (shiftA k s).launch = s.launch := rfl

/-! ### writeFlag -/

@[simp] theorem writeFlag_a (f : Flag) (b : Bool) (s : State) : (writeFlag f b s).a = s.a := rfl
@[simp] theorem writeFlag_x (f : Flag) (b : Bool) (s : State) : (writeFlag f b s).x = s.x := rfl
@[simp] theorem writeFlag_y (f : Flag) (b : Bool) (s : State) : (writeFlag f b s).y = s.y := rfl
@[simp] theorem writeFlag_sp (f : Flag) (b : Bool) (s : State) : (writeFlag f b s).sp = s.sp := rfl
@[simp] theorem writeFlag_p (f : Flag) (b : Bool) (s : State) : (writeFlag f b s).p = setFlag f b s.p := rfl
@[simp] theorem writeFlag_pc (f : Flag) (b : Bool) (s : State) : (writeFlag f b s).pc = s.pc := rfl
@[simp] theorem writeFlag_cyclesLeft (f : Flag) (b : Bool) (s : State) : (writeFlag f b s).cyclesLeft = s.cyclesLeft := rfl
@[simp] theorem writeFlag_nmiPending (f : Flag) (b : Bool) (s : State) : (writeFlag f b s).nmiPending = s.nmiPending := rfl
@[simp] theorem writeFlag_irqPending (f : Flag) (b : Bool) (s : State) : (writeFlag f b s).irqPending = s.irqPending := rfl
@[simp] theorem writeFlag_slots (f : Flag) (b : Bool) (s : State) : (writeFlag f b s).slots = s.slots := rfl
@[simp] theorem writeFlag_flat (f : Flag) (b : Bool) (s : State) : (writeFlag f b s).flat = s.flat := rfl
@[simp] theorem writeFlag_ram (f : Flag) (b : Bool) (s : State) : (writeFlag f b s).ram = s.ram := rfl
@[simp] theorem writeFlag_bankLo (f : Flag) (b : Bool) (s : State) : (writeFlag f b s).bankLo = s.bankLo := rfl
@[simp] theorem writeFlag_bankHi (f : Flag) (b : Bool) (s : State) : (writeFlag f b s).bankHi = s.bankHi := rfl
@[simp] theorem writeFlag_ppu (f : Flag) (b : Bool) (s : State) : (writeFlag f b s).ppu = s.ppu := rfl
@[simp] theorem writeFlag_frameDone (f : Flag) (b : Bool) (s : State) : (writeFlag f b s).frameDone = s.frameDone := rfl
@[simp] theorem writeFlag_draws (f : Flag) (b : Bool) (s : State) : (writeFlag f b s).draws = s.draws := rfl
@[simp] theorem writeFlag_launch (f : Flag) (b : Bool) (s : State) : (writeFlag f b s).launch = s.launch := rfl

/-! ### setAX -/

@[simp] theorem setAX_a (m : Byte) (s : State) : (setAX m s).a = m := rfl
@[simp] theorem setAX_x (m : Byte) (s : State) : (setAX m s).x = m := rfl
@[simp] theorem setAX_y (m : Byte) (s : State) : (setAX m s).y = s.y := rfl
@[simp] theorem setAX_sp (m : Byte) (s : State) : (setAX m s).sp = s.sp := rfl
@[simp] theorem setAX_p (m : Byte) (s : State) : (setAX m s).p = setZN m s.p := rfl
@[simp] theorem setAX_pc (m : Byte) (s : State) : (setAX m s).pc = s.pc := rfl
@[simp] theorem setAX_cyclesLeft (m : Byte) (s : State) : (setAX m s).cyclesLeft = s.cyclesLeft := rfl
@[simp] theorem setAX_nmiPending (m : Byte) (s : State) : (setAX m s).nmiPending = s.nmiPending := rfl
@[simp] theorem setAX_irqPending (m : Byte) (s : State) : (setAX m s).irqPending = s.irqPending := rfl
@[simp] theorem setAX_slots (m : Byte) (s : State) : (setAX m s).slots = s.slots := rfl
@[simp] theorem setAX_flat (m : Byte) (s : State) : (setAX m s).flat = s.flat := rfl
@[simp] theorem setAX_ram (m : Byte) (s : State) : (setAX m s).ram = s.ram := rfl
@[simp] theorem setAX_bankLo (m : Byte) (s : State) : (setAX m s).bankLo = s.bankLo := rfl
@[simp] theorem setAX_bankHi (m : Byte) (s : State) : (setAX m s).bankHi = s.bankHi := rfl
@[simp] theorem setAX_ppu (m : Byte) (s : State) : (setAX m s).ppu = s.ppu := rfl
@[simp] theorem setAX_frameDone (m : Byte) (s : State) : (setAX m s).frameDone = s.frameDone := rfl
@[simp] theorem setAX_draws (m : Byte) (s : State) : (setAX m s).draws = s.draws := rfl
@[simp] theorem setAX_launch (m : Byte) (s : State) : (setAX m s).launch = s.launch := rfl

/-! ### subtractToX -/

@[simp] theorem subtractToX_a (m : Byte) (s : State) : (subtractToX m s).a = s.a := rfl
@[simp] theorem subtractToX_x (m : Byte) (s : State) : (subtractToX m s).x = (s.a &&& s.x) - m := rfl
@[simp] theorem subtractToX_y (m : Byte) (s : State) : (subtractToX m s).y = s.y := rfl
@[simp] theorem subtractToX_sp (m : Byte) (s : State) : (subtractToX m s).sp = s.sp := rfl
@[simp] theorem subtractToX_p (m : Byte) (s : State) : (subtractToX m s).p = axsFlags (s.a &&& s.x) m s.p := rfl
@[simp] theorem subtractToX_pc (m : Byte) (s : State) : (subtractToX m s).pc = s.pc := rfl
@[simp] theorem subtractToX_cyclesLeft (m : Byte) (s : State) : (subtractToX m s).cyclesLeft = s.cyclesLeft := rfl
@[simp] theorem subtractToX_nmiPending (m : Byte) (s : State) : (subtractToX m s).nmiPending = s.nmiPending := rfl
@[simp] theorem subtractToX_irqPending (m : Byte) (s : State) : (subtractToX m s).irqPending = s.irqPending := rfl
@[simp] theorem subtractToX_slots (m : Byte) (s : State) : (subtractToX m s).slots = s.slots := rfl
@[simp] theorem subtractToX_flat (m : Byte) (s : State) : (subtractToX m s).flat = s.flat := rfl
@[simp] theorem subtractToX_ram (m : Byte) (s : State) : (subtractToX m s).ram = s.ram := rfl
@[simp] theorem subtractToX_bankLo (m : Byte) (s : State) : (subtractToX m s).bankLo = s.bankLo := rfl
@[simp] theorem subtractToX_bankHi (m : Byte) (s : State) : (subtractToX m s).bankHi = s.bankHi := rfl
@[simp] theorem subtractToX_ppu (m : Byte) (s : State) : (subtractToX m s).ppu = s.ppu := rfl
@[simp] theorem subtractToX_frameDone (m : Byte) (s : State) : (subtractToX m s).frameDone = s.frameDone := rfl
@[simp] theorem subtractToX_draws (m : Byte) (s : State) : (subtractToX m s).draws = s.draws := rfl
@[simp] theorem subtractToX_launch (m : Byte) (s : State) : (subtractToX m s).launch = s.launch := rfl

/-! ### setAXS -/

@[simp] theorem setAXS_a (m : Byte) (s : State) : (setAXS m s).a = m &&& s.sp := rfl
@[simp] theorem setAXS_x (m : Byte) (s : State) : (setAXS m s).x = m &&& s.sp := rfl
@[simp] theorem setAXS_y (m : Byte) (s : State) : (setAXS m s).y = s.y := rfl
@[simp] theorem setAXS_sp (m : Byte) (s : State) : (setAXS m s).sp = m &&& s.sp := rfl
@[simp] theorem setAXS_p (m : Byte) (s : State) : (setAXS m s).p = setZN (m &&& s.sp) s.p := rfl
@[simp] theorem setAXS_pc (m : Byte) (s : State) : (setAXS m s).pc = s.pc := rfl
@[simp] theorem setAXS_cyclesLeft (m : Byte) (s : State) : (setAXS m s).cyclesLeft = s.cyclesLeft := rfl
@[simp] theorem setAXS_nmiPending (m : Byte) (s : State) : (setAXS m s).nmiPending = s.nmiPending := rfl
@[simp] theorem setAXS_irqPending (m : Byte) (s : State) : (setAXS m s).irqPending = s.irqPending := rfl
@[simp] theorem setAXS_slots (m : Byte) (s : State) : (setAXS m s).slots = s.slots := rfl
@[simp] theorem setAXS_flat (m : Byte) (s : State) : (setAXS m s).flat = s.flat := rfl
@[simp] theorem setAXS_ram (m : Byte) (s : State) : (setAXS m s).ram = s.ram := rfl
@[simp] theorem setAXS_bankLo (m : Byte) (s : State) : (setAXS m s).bankLo = s.bankLo := rfl
@[simp] theorem setAXS_bankHi (m : Byte) (s : State) : (setAXS m s).bankHi = s.bankHi := rfl
@[simp] theorem setAXS_ppu (m : Byte) (s : State) : (setAXS m s).ppu = s.ppu := rfl
@[simp] theorem setAXS_frameDone (m : Byte) (s : State) : (setAXS m s).frameDone = s.frameDone := rfl
@[simp] theorem setAXS_draws (m : Byte) (s : State) : (setAXS m s).draws = s.draws := rfl
@[simp] theorem setAXS_launch (m : Byte) (s : State) : (setAXS m s).launch = s.launch := rfl

/-! ### andCopyNToC -/

@[simp] theorem andCopyNToC_a (m : Byte) (s : State) : (andCopyNToC m s).a = s.a &&& m := rfl
@[simp] theorem andCopyNToC_x (m : Byte) (s : State) : (andCopyNToC m s).x = s.x := rfl
@[simp] theorem andCopyNToC_y (m : Byte) (s : State) : (andCopyNToC m s).y = s.y := rfl
@[simp] theorem andCopyNToC_sp (m : Byte) (s : State) : (andCopyNToC m s).sp = s.sp := rfl
@[simp] theorem andCopyNToC_p (m : Byte) (s : State) : (andCopyNToC m s).p = setFlag .c (s.a &&& m).msb (setZN (s.a &&& m) s.p) := rfl
@[simp] theorem andCopyNToC_pc (m : Byte) (s : State) : (andCopyNToC m s).pc = s.pc := rfl
@[simp] theorem andCopyNToC_cyclesLeft (m : Byte) (s : State) : (andCopyNToC m s).cyclesLeft = s.cyclesLeft := rfl
@[simp] theorem andCopyNToC_nmiPending (m : Byte) (s : State) : (andCopyNToC m s).nmiPending = s.nmiPending := rfl
@[simp] theorem andCopyNToC_irqPending (m : Byte) (s : State) : (andCopyNToC m s).irqPending = s.irqPending := rfl
@[simp] theorem andCopyNToC_slots (m : Byte) (s : State) : (andCopyNToC m s).slots = s.slots := rfl
@[simp] theorem andCopyNToC_flat (m : Byte) (s : State) : (andCopyNToC m s).flat = s.flat := rfl
@[simp] theorem andCopyNToC_ram (m : Byte) (s : State) : (andCopyNToC m s).ram = s.ram := rfl
@[simp] theorem andCopyNToC_bankLo (m : Byte) (s : State) : (andCopyNToC m s).bankLo = s.bankLo := rfl
@[simp] theorem andCopyNToC_bankHi (m : Byte) (s : State) : (andCopyNToC m s).bankHi = s.bankHi := rfl
@[simp] theorem andCopyNToC_ppu (m : Byte) (s : State) : (andCopyNToC m s).ppu = s.ppu := rfl
@[simp] theorem andCopyNToC_frameDone (m : Byte) (s : State) : (andCopyNToC m s).frameDone = s.frameDone := rfl
@[simp] theorem andCopyNToC_draws (m : Byte) (s : State) : (andCopyNToC m s).draws = s.draws := rfl
@[simp] theorem andCopyNToC_launch (m : Byte) (s : State) : (andCopyNToC m s).launch = s.launch := rfl

/-! ### andShiftRight -/

@[simp] theorem andShiftRight_a (m : Byte) (s : State) : (andShiftRight m s).a = (s.a &&& m) >>> 1 := rfl
@[simp] theorem andShiftRight_x (m : Byte) (s : State) : (andShiftRight m s).x = s.x := rfl
@[simp] theorem andShiftRight_y (m : Byte) (s : State) : (andShiftRight m s).y = s.y := rfl
@[simp] theorem andShiftRight_sp (m : Byte) (s : State) : (andShiftRight m s).sp = s.sp := rfl
@[simp] theorem andShiftRight_p (m : Byte) (s : State) : (andShiftRight m s).p = setZN ((s.a &&& m) >>> 1) (setFlag .c ((s.a &&& m).getLsbD 0) s.p) := rfl
@[simp] theorem andShiftRight_pc (m : Byte) (s : State) : (andShiftRight m s).pc = s.pc := rfl
@[simp] theorem andShiftRight_cyclesLeft (m : Byte) (s : State) : (andShiftRight m s).cyclesLeft = s.cyclesLeft := rfl
@[simp] theorem andShiftRight_nmiPending (m : Byte) (s : State) : (andShiftRight m s).nmiPending = s.nmiPending := rfl
@[simp] theorem andShiftRight_irqPending (m : Byte) (s : State) : (andShiftRight m s).irqPending = s.irqPending := rfl
@[simp] theorem andShiftRight_slots (m : Byte) (s : State) : (andShiftRight m s).slots = s.slots := rfl
@[simp] theorem andShiftRight_flat (m : Byte) (s : State) : (andShiftRight m s).flat = s.flat := rfl
@[simp] theorem andShiftRight_ram (m : Byte) (s : State) : (andShiftRight m s).ram = s.ram := rfl
@[simp] theorem andShiftRight_bankLo (m : Byte) (s : State) : (andShiftRight m s).bankLo = s.bankLo := rfl
@[simp] theorem andShiftRight_bankHi (m : Byte) (s : State) : (andShiftRight m s).bankHi = s.bankHi := rfl
@[simp] theorem andShiftRight_ppu (m : Byte) (s : State) : (andShiftRight m s).ppu = s.ppu := rfl
@[simp] theorem andShiftRight_frameDone (m : Byte) (s : State) : (andShiftRight m s).frameDone = s.frameDone := rfl
@[simp] theorem andShiftRight_draws (m : Byte) (s : State) : (andShiftRight m s).draws = s.draws := rfl
@[simp] theorem andShiftRight_launch (m : Byte) (s : State) : (andShiftRight m s).launch = s.launch := rfl

/-! ### andRotateRight -/

@[simp] theorem andRotateRight_a (m : Byte) (s : State) : (andRotateRight m s).a = arrResult (s.a &&& m) (s.flag .c) := rfl
@[simp] theorem andRotateRight_x (m : Byte) (s : State) : (andRotateRight m s).x = s.x := rfl
@[simp] theorem andRotateRight_y (m : Byte) (s : State) : (andRotateRight m s).y = s.y := rfl
@[simp] theorem andRotateRight_sp (m : Byte) (s : State) : (andRotateRight m s).sp = s.sp := rfl
@[simp] theorem andRotateRight_p (m : Byte) (s : State) : (andRotateRight m s).p = arrFlags (arrResult (s.a &&& m) (s.flag .c)) s.p := rfl
@[simp] theorem andRotateRight_pc (m : Byte) (s : State) : (andRotateRight m s).pc = s.pc := rfl
@[simp] theorem andRotateRight_cyclesLeft (m : Byte) (s : State) : (andRotateRight m s).cyclesLeft = s.cyclesLeft := rfl
@[simp] theorem andRotateRight_nmiPending (m : Byte) (s : State) : (andRotateRight m s).nmiPending = s.nmiPending := rfl
@[simp] theorem andRotateRight_irqPending (m : Byte) (s : State) : (andRotateRight m s).irqPending = s.irqPending := rfl
@[simp] theorem andRotateRight_slots (m : Byte) (s : State) : (andRotateRight m s).slots = s.slots := rfl
@[simp] theorem andRotateRight_flat (m : Byte) (s : State) : (andRotateRight m s).flat = s.flat := rfl
@[simp] theorem andRotateRight_ram (m : Byte) (s : State) : (andRotateRight m s).ram = s.ram := rfl
@[simp] theorem andRotateRight_bankLo (m : Byte) (s : State) : (andRotateRight m s).bankLo = s.bankLo := rfl
@[simp] theorem andRotateRight_bankHi (m : Byte) (s : State) : (andRotateRight m s).bankHi = s.bankHi := rfl
@[simp] theorem andRotateRight_ppu (m : Byte) (s : State) : (andRotateRight m s).ppu = s.ppu := rfl
@[simp] theorem andRotateRight_frameDone (m : Byte) (s : State) : (andRotateRight m s).frameDone = s.frameDone := rfl
@[simp] theorem andRotateRight_draws (m : Byte) (s : State) : (andRotateRight m s).draws = s.draws := rfl
@[simp] theorem andRotateRight_launch (m : Byte) (s : State) : (andRotateRight m s).launch = s.launch := rfl

/-! ### setStackFromAX -/

@[simp] theorem setStackFromAX_a (s : State) : (setStackFromAX s).a = s.a := rfl
@[simp] theorem setStackFromAX_x (s : State) : (setStackFromAX s).x = s.x := rfl
@[simp] theorem setStackFromAX_y (s : State) : (setStackFromAX s).y = s.y := rfl
@[simp] theorem setStackFromAX_sp (s : State) : (setStackFromAX s).sp = s.a &&& s.x := rfl
@[simp] theorem setStackFromAX_p (s : State) : (setStackFromAX s).p = s.p := rfl
@[simp] theorem setStackFromAX_pc (s : State) : (setStackFromAX s).pc = s.pc := rfl
@[simp] theorem setStackFromAX_cyclesLeft (s : State) : (setStackFromAX s).cyclesLeft = s.cyclesLeft := rfl
@[simp] theorem setStackFromAX_nmiPending (s : State) : (setStackFromAX s).nmiPending = s.nmiPending := rfl
@[simp] theorem setStackFromAX_irqPending (s : State) : (setStackFromAX s).irqPending = s.irqPending := rfl
@[simp] theorem setStackFromAX_slots (s : State) : (setStackFromAX s).slots = s.slots := rfl
@[simp] theorem setStackFromAX_flat (s : State) : (setStackFromAX s).flat = s.flat := rfl
@[simp] theorem setStackFromAX_ram (s : State) : (setStackFromAX s).ram = s.ram := rfl
@[simp] theorem setStackFromAX_bankLo (s : State) : (setStackFromAX s).bankLo = s.bankLo := rfl
@[simp] theorem setStackFromAX_bankHi (s : State) : (setStackFromAX s).bankHi = s.bankHi := rfl
@[simp] theorem setStackFromAX_ppu (s : State) : (setStackFromAX s).ppu = s.ppu := rfl
@[simp] theorem setStackFromAX_frameDone (s : State) : (setStackFromAX s).frameDone = s.frameDone := rfl
@[simp] theorem setStackFromAX_draws (s : State) : (setStackFromAX s).draws = s.draws := rfl
@[simp] theorem setStackFromAX_launch (s : State) : (setStackFromAX s).launch = s.launch := rfl

/-! ### raiseNmi -/

@[simp] theorem raiseNmi_a (s : State) : (raiseNmi s).a = s.a := rfl
@[simp] theorem raiseNmi_x (s : State) : (raiseNmi s).x = s.x := rfl
@[simp] theorem raiseNmi_y (s : State) : (raiseNmi s).y = s.y := rfl
@[simp] theorem raiseNmi_sp (s : State) : (raiseNmi s).sp = s.sp := rfl
@[simp] theorem raiseNmi_p (s : State) : (raiseNmi s).p = s.p := rfl
@[simp] theorem raiseNmi_pc (s : State) : (raiseNmi s).pc = s.pc := rfl
@[simp] theorem raiseNmi_cyclesLeft (s : State) : (raiseNmi s).cyclesLeft = s.cyclesLeft := rfl
@[simp] theorem raiseNmi_nmiPending (s : State) : (raiseNmi s).nmiPending = true := rfl
@[simp] theorem raiseNmi_irqPending (s : State) : (raiseNmi s).irqPending = s.irqPending := rfl
@[simp] theorem raiseNmi_slots (s : State) : (raiseNmi s).slots = s.slots := rfl
@[simp] theorem raiseNmi_flat (s : State) : (raiseNmi s).flat = s.flat := rfl
@[simp] theorem raiseNmi_ram (s : State) : (raiseNmi s).ram = s.ram := rfl
@[simp] theorem raiseNmi_bankLo (s : State) : (raiseNmi s).bankLo = s.bankLo := rfl
@[simp] theorem raiseNmi_bankHi (s : State) : (raiseNmi s).bankHi = s.bankHi := rfl
@[simp] theorem raiseNmi_ppu (s : State) : (raiseNmi s).ppu = s.ppu := rfl
@[simp] theorem raiseNmi_frameDone (s : State) : (raiseNmi s).frameDone = s.frameDone := rfl
@[simp] theorem raiseNmi_draws (s : State) : (raiseNmi s).draws = s.draws := rfl
@[simp] theorem raiseNmi_launch (s : State) : (raiseNmi s).launch = s.launch := rfl

/-! ### raiseIrq -/

@[simp] theorem raiseIrq_a (s : State) : (raiseIrq s).a = s.a := rfl
@[simp] theorem raiseIrq_x (s : State) : (raiseIrq s).x = s.x := rfl
@[simp] theorem raiseIrq_y (s : State) : (raiseIrq s).y = s.y := rfl
@[simp] theorem raiseIrq_sp (s : State) : (raiseIrq s).sp = s.sp := rfl
@[simp] theorem raiseIrq_p (s : State) : (raiseIrq s).p = s.p := rfl
@[simp] theorem raiseIrq_pc (s : State) : (raiseIrq s).pc = s.pc := rfl
@[simp] theorem raiseIrq_cyclesLeft (s : State) : (raiseIrq s).cyclesLeft = s.cyclesLeft := rfl
@[simp] theorem raiseIrq_nmiPending (s : State) : (raiseIrq s).nmiPending = s.nmiPending := rfl
@[simp] theorem raiseIrq_irqPending (s : State) : (raiseIrq s).irqPending = true := rfl
@[simp] theorem raiseIrq_slots (s : State) : (raiseIrq s).slots = s.slots := rfl
@[simp] theorem raiseIrq_flat (s : State) : (raiseIrq s).flat = s.flat := rfl
@[simp] theorem raiseIrq_ram (s : State) : (raiseIrq s).ram = s.ram := rfl
@[simp] theorem raiseIrq_bankLo (s : State) : (raiseIrq s).bankLo = s.bankLo := rfl
@[simp] theorem raiseIrq_bankHi (s : State) : (raiseIrq s).bankHi = s.bankHi := rfl
@[simp] theorem raiseIrq_ppu (s : State) : (raiseIrq s).ppu = s.ppu := rfl
@[simp] theorem raiseIrq_frameDone (s : State) : (raiseIrq s).frameDone = s.frameDone := rfl
@[simp] theorem raiseIrq_draws (s : State) : (raiseIrq s).draws = s.draws := rfl
@[simp] theorem raiseIrq_launch (s : State) : (raiseIrq s).launch = s.launch := rfl

end Sys2Proof.Machine
end

