-- ==== Sys2Proof/Laws/Video.lean ====
section
/-! SUPPORT. The PPU: what a video write and a PPU clock can do, said once. -/

namespace Sys2Proof.Machine

/-- R335: the byte a video cell holds after a video write. -/
theorem readVideoCell_writeVideoCell (u : Ppu) (b : Byte) (c d : VideoCell) :
    (u.writeVideoCell b c).readVideoCell d = if c = d then b else u.readVideoCell d := by
  cases c <;> cases d <;> simp [Ppu.writeVideoCell, Ppu.readVideoCell, Memory.get_set, eq_comm]

/-- R335: the three kinds of video cell, by region. -/
theorem videoCell_cases (m : Mirroring) (v : BitVec 14) :
    (v.toNat < 0x2000 ∧ videoCell m v = .chr v.toNat) ∨
    (v.toNat / 4096 = 2 ∧ videoCell m v = .nt (physicalTable m (v.extractLsb' 10 2) * 1024 + v.toNat % 1024)) ∨
    (v.toNat / 4096 = 3 ∧ videoCell m v = .pal (paletteIndex v)) := by
  have hv := v.isLt
  unfold videoCell
  split
  · exact .inl ⟨by omega, by rw [Nat.mod_eq_of_lt (by omega)]⟩
  · exact .inl ⟨by omega, by rw [Nat.mod_eq_of_lt (by omega)]⟩
  · exact .inr (.inl ⟨by assumption, rfl⟩)
  · rename_i h0 h1 h2
    have h0 : v.toNat / 4096 ≠ 0 := h0
    have h1 : v.toNat / 4096 ≠ 1 := h1
    have h2 : v.toNat / 4096 ≠ 2 := h2
    exact .inr (.inr ⟨by omega, rfl⟩)

/-- R340: advancing changes the counters and the active index only. -/
theorem advance_eq (u : Ppu) : ∃ c l a, u.advance.1 = { u with cycle := c, scanline := l, active := a } := by
  unfold Ppu.advance
  split
  · split <;> exact ⟨_, _, _, rfl⟩
  · exact ⟨_, _, _, rfl⟩

/-- R340: the three things advancing can do. -/
theorem clock_cases (u : Ppu) (size : Nat) :
    (u.cycle + 1 = 262 → u.scanline + 1 = 340 → (u.clock size).1.cycle = 0 ∧ (u.clock size).1.scanline = -1 ∧
      (u.clock size).1.active = 1 - u.active ∧ (u.clock size).2 = true) ∧
    (u.cycle + 1 = 262 → u.scanline + 1 ≠ 340 → (u.clock size).1.cycle = 0 ∧
      (u.clock size).1.scanline = u.scanline + 1 ∧ (u.clock size).1.active = u.active ∧ (u.clock size).2 = false) ∧
    (u.cycle + 1 ≠ 262 → (u.clock size).1.cycle = u.cycle + 1 ∧ (u.clock size).1.scanline = u.scanline ∧
      (u.clock size).1.active = u.active ∧ (u.clock size).2 = false) := by
  show (_ → _ → ((u.paint size).advance).1.cycle = 0 ∧ ((u.paint size).advance).1.scanline = -1 ∧
      ((u.paint size).advance).1.active = 1 - u.active ∧ ((u.paint size).advance).2 = true) ∧
    (_ → _ → ((u.paint size).advance).1.cycle = 0 ∧ ((u.paint size).advance).1.scanline = u.scanline + 1 ∧
      ((u.paint size).advance).1.active = u.active ∧ ((u.paint size).advance).2 = false) ∧
    (_ → ((u.paint size).advance).1.cycle = u.cycle + 1 ∧ ((u.paint size).advance).1.scanline = u.scanline ∧
      ((u.paint size).advance).1.active = u.active ∧ ((u.paint size).advance).2 = false)
  have hc : (u.paint size).cycle = u.cycle := rfl
  have hl : (u.paint size).scanline = u.scanline := rfl
  unfold Ppu.advance
  simp only [hc, hl, Config.ppuCyclesPerLine, Config.ppuLinesPerFrame]
  refine ⟨fun h1 h2 => ?_, fun h1 h2 => ?_, fun h1 => ?_⟩
  · rw [if_pos h1, if_pos (by omega)]
    exact ⟨rfl, rfl, rfl, rfl⟩
  · rw [if_pos h1, if_neg (by omega)]
    exact ⟨rfl, rfl, rfl, rfl⟩
  · rw [if_neg h1]
    exact ⟨rfl, rfl, rfl, rfl⟩

/-- R340: the clocks of a run, the last one last. -/
theorem afterClocks_succ (size n : Nat) (u : Ppu) :
    Ppu.afterClocks size (n + 1) u = ((Ppu.afterClocks size n u).clock size).1 := by
  induction n generalizing u with
  | zero => rfl
  | succ n ih => rw [Ppu.afterClocks, ih]; rfl

/-- R43: one frame buffer after the other one is written. -/
theorem frame_get_set (f : Vector Memory 2) (i j : Fin 2) (m : Memory) :
    (f.set i.val m i.isLt).get j = if i = j then m else f.get j := by
  show (f.set i.val m i.isLt)[j.val]'j.isLt = _
  rw [Vector.getElem_set]
  by_cases h : i = j
  · simp [h]
  · have : i.val ≠ j.val := fun he => h (Fin.ext he)
    simp only [this, h, if_false]
    rfl

/-- R405: the PPU clocks of a tick touch the PPU and the frame signal only. -/
theorem ppuClocks_eq (n : Nat) (s : State) :
    ∃ u d, ppuClocks n s = { s with ppu := u, frameDone := d } ∧ u.reg = s.ppu.reg ∧ u.chr = s.ppu.chr ∧
      u.nt = s.ppu.nt ∧ u.pal = s.ppu.pal ∧ u.oam = s.ppu.oam := by
  induction n generalizing s with
  | zero => exact ⟨_, _, rfl, rfl, rfl, rfl, rfl, rfl⟩
  | succ n ih =>
    obtain ⟨c, l, a, h⟩ := advance_eq (s.ppu.paint (Launch.frameSize s.launch))
    obtain ⟨u, d, hu, h1, h2, h3, h4, h5⟩ := ih { (ppuClock s).1 with frameDone := s.frameDone || (ppuClock s).2 }
    have hp : (ppuClock s).1.ppu = _ := h
    simp only [hp] at h1 h2 h3 h4 h5
    exact ⟨u, d, hu, h1, h2, h3, h4, h5⟩

/-- R340: advancing keeps the PPU sound. -/
theorem wf_advance (u : Ppu) (l : Launch) (h : u.wf l) : u.advance.1.wf l := by
  obtain ⟨hc, hn, hp, ho, hf, ha, h1, h2, h3⟩ := h
  simp only [Config.ppuCyclesPerLine, Config.ppuLinesPerFrame] at h1 h3
  unfold Ppu.advance
  by_cases c1 : u.cycle + 1 = Config.ppuCyclesPerLine
  · rw [if_pos c1]
    by_cases c2 : u.scanline + 1 = (Config.ppuLinesPerFrame : Int) - 1
    · rw [if_pos c2]
      exact ⟨hc, hn, hp, ho, hf, ha, show 0 < 262 by decide, show (-1 : Int) ≤ -1 by decide,
        show (-1 : Int) ≤ 341 - 2 by decide⟩
    · rw [if_neg c2]
      simp only [Config.ppuLinesPerFrame] at c2
      exact ⟨hc, hn, hp, ho, hf, ha, show 0 < 262 by decide, show -1 ≤ u.scanline + 1 by omega,
        show u.scanline + 1 ≤ 341 - 2 by omega⟩
  · rw [if_neg c1]
    simp only [Config.ppuCyclesPerLine] at c1
    exact ⟨hc, hn, hp, ho, hf, ha, show u.cycle + 1 < 262 by omega, h2, h3⟩

end Sys2Proof.Machine
end

