-- ==== Sys2Proof/Tests/Slice0.lean ====
section
/-! SUPPORT. The model's own tests. Expected results come from the spec: the opcode matrix (R104), the vectors of
95_test_vectors.md, and hand calculation from the rule a test names. The last part holds a witness for the hypotheses
of every statement that has some. -/

namespace Sys2Proof.Tests

open Sys2Proof.Machine

/-! ### Machines to test on -/

/-- 95_test_vectors.md's machine: a flat Memory device in all 16 slots, the registers as after Reset. -/
def flatMachine (pc : Word) (m : Memory) : State :=
  { State.reset with pc := pc, flat := m, slots := .replicate 16 (some .flat) }

/-- A banked Memory device in all 16 slots. -/
def bankedMachine (high : HighBank) : State :=
  { State.reset with slots := .replicate 16 (some .banked), bankHi := high }

/-- The launch parameters with ILLEGAL_SEMANTICS = reference. -/
def referenceLaunch : Launch := { Config.defaultLaunch with illegal := .reference }

/-- What is read off the state one step leaves. -/
def after {α : Type} (f : State → α) (s : State) : Option α :=
  match step s with
  | .next t => some (f t)
  | _ => none

/-- What is read off the state one instruction leaves. -/
def afterExec {α : Type} (f : State → α) (i : Instr) (s : State) : Option α :=
  match exec i s with
  | .next t => some (f t)
  | _ => none

/-! ### Well-formedness: an ill-formed term for each check -/

/-- R342: a frame needs a pixel. -/
theorem test_launch_without_pixels_refused :
    ({ Config.defaultLaunch with frameWidth := 0 } : Launch).wellFormed = false := by decide

theorem test_launch_default_accepted : Config.defaultLaunch.wellFormed = true := by decide

/-- R300: a block count below 1. -/
theorem test_entry_of_no_slots_refused : (MapEntry.mk .banked 0 0).wellFormed = false := by decide

/-- R300: a block count above 16. -/
theorem test_entry_of_17_slots_refused : (MapEntry.mk .banked 0 17).wellFormed = false := by decide

/-- R300: a range past slot 15. -/
theorem test_entry_past_slot_15_refused : (MapEntry.mk .banked 15 2).wellFormed = false := by decide

theorem test_entry_of_slot_15_accepted : (MapEntry.mk .banked 15 1).wellFormed = true := by decide

/-- R300: a slot claimed twice. -/
theorem test_overlapping_map_refused :
    PlatformMap.wellFormed [⟨.banked, 0, 2⟩, ⟨.ppu, 1, 1⟩] = false := by decide

/-- R75: the default map. -/
theorem test_default_map_accepted : PlatformMap.wellFormed Config.defaultMap = true := by decide

/-- No instruction term is ill-formed (R108): the check of Instr.wellFormed accepts them all, here one with every
operand bit set. -/
theorem test_instruction_accepted : (Instr.jmpInd 0xFFFF).wellFormed = true := by decide

/-! ### Decoding: every opcode's word, from R104's matrix and R101's formats; operand bytes 0x34, then 0x12 (R103) -/

theorem test_decode_row_0 :
    [(8, 0x00), (16, 0x3401), (8, 0x02), (16, 0x3403), (16, 0x3404), (16, 0x3405), (16, 0x3406),
     (16, 0x3407), (8, 0x08), (16, 0x3409), (8, 0x0A), (16, 0x340B), (24, 0x12340C), (24, 0x12340D),
     (24, 0x12340E), (24, 0x12340F)].map (fun c => decodeTableWord c.1 c.2) =
    [some .brk, some (.oraIzx 0x34), some .kil02, some (.sloIzx 0x34), some (.nopZp04 0x34),
     some (.oraZp 0x34), some (.aslZp 0x34), some (.sloZp 0x34), some .php, some (.oraImm 0x34),
     some .aslAcc, some (.ancImm0B 0x34), some (.nopAbs 0x1234), some (.oraAbs 0x1234),
     some (.aslAbs 0x1234), some (.sloAbs 0x1234)] := by decide

theorem test_decode_row_1 :
    [(16, 0x3410), (16, 0x3411), (8, 0x12), (16, 0x3413), (16, 0x3414), (16, 0x3415), (16, 0x3416),
     (16, 0x3417), (8, 0x18), (24, 0x123419), (8, 0x1A), (24, 0x12341B), (24, 0x12341C), (24, 0x12341D),
     (24, 0x12341E), (24, 0x12341F)].map (fun c => decodeTableWord c.1 c.2) =
    [some (.bplRel 0x34), some (.oraIzy 0x34), some .kil12, some (.sloIzy 0x34), some (.nopZpx14 0x34),
     some (.oraZpx 0x34), some (.aslZpx 0x34), some (.sloZpx 0x34), some .clc, some (.oraAby 0x1234),
     some .nopImp1A, some (.sloAby 0x1234), some (.nopAbx1C 0x1234), some (.oraAbx 0x1234),
     some (.aslAbx 0x1234), some (.sloAbx 0x1234)] := by decide

theorem test_decode_row_2 :
    [(24, 0x123420), (16, 0x3421), (8, 0x22), (16, 0x3423), (16, 0x3424), (16, 0x3425), (16, 0x3426),
     (16, 0x3427), (8, 0x28), (16, 0x3429), (8, 0x2A), (16, 0x342B), (24, 0x12342C), (24, 0x12342D),
     (24, 0x12342E), (24, 0x12342F)].map (fun c => decodeTableWord c.1 c.2) =
    [some (.jsrAbs 0x1234), some (.andIzx 0x34), some .kil22, some (.rlaIzx 0x34), some (.bitZp 0x34),
     some (.andZp 0x34), some (.rolZp 0x34), some (.rlaZp 0x34), some .plp, some (.andImm 0x34),
     some .rolAcc, some (.ancImm2B 0x34), some (.bitAbs 0x1234), some (.andAbs 0x1234),
     some (.rolAbs 0x1234), some (.rlaAbs 0x1234)] := by decide

theorem test_decode_row_3 :
    [(16, 0x3430), (16, 0x3431), (8, 0x32), (16, 0x3433), (16, 0x3434), (16, 0x3435), (16, 0x3436),
     (16, 0x3437), (8, 0x38), (24, 0x123439), (8, 0x3A), (24, 0x12343B), (24, 0x12343C), (24, 0x12343D),
     (24, 0x12343E), (24, 0x12343F)].map (fun c => decodeTableWord c.1 c.2) =
    [some (.bmiRel 0x34), some (.andIzy 0x34), some .kil32, some (.rlaIzy 0x34), some (.nopZpx34 0x34),
     some (.andZpx 0x34), some (.rolZpx 0x34), some (.rlaZpx 0x34), some .sec, some (.andAby 0x1234),
     some .nopImp3A, some (.rlaAby 0x1234), some (.nopAbx3C 0x1234), some (.andAbx 0x1234),
     some (.rolAbx 0x1234), some (.rlaAbx 0x1234)] := by decide

theorem test_decode_row_4 :
    [(8, 0x40), (16, 0x3441), (8, 0x42), (16, 0x3443), (16, 0x3444), (16, 0x3445), (16, 0x3446),
     (16, 0x3447), (8, 0x48), (16, 0x3449), (8, 0x4A), (16, 0x344B), (24, 0x12344C), (24, 0x12344D),
     (24, 0x12344E), (24, 0x12344F)].map (fun c => decodeTableWord c.1 c.2) =
    [some .rti, some (.eorIzx 0x34), some .kil42, some (.sreIzx 0x34), some (.nopZp44 0x34),
     some (.eorZp 0x34), some (.lsrZp 0x34), some (.sreZp 0x34), some .pha, some (.eorImm 0x34),
     some .lsrAcc, some (.alrImm 0x34), some (.jmpAbs 0x1234), some (.eorAbs 0x1234),
     some (.lsrAbs 0x1234), some (.sreAbs 0x1234)] := by decide

theorem test_decode_row_5 :
    [(16, 0x3450), (16, 0x3451), (8, 0x52), (16, 0x3453), (16, 0x3454), (16, 0x3455), (16, 0x3456),
     (16, 0x3457), (8, 0x58), (24, 0x123459), (8, 0x5A), (24, 0x12345B), (24, 0x12345C), (24, 0x12345D),
     (24, 0x12345E), (24, 0x12345F)].map (fun c => decodeTableWord c.1 c.2) =
    [some (.bvcRel 0x34), some (.eorIzy 0x34), some .kil52, some (.sreIzy 0x34), some (.nopZpx54 0x34),
     some (.eorZpx 0x34), some (.lsrZpx 0x34), some (.sreZpx 0x34), some .cli, some (.eorAby 0x1234),
     some .nopImp5A, some (.sreAby 0x1234), some (.nopAbx5C 0x1234), some (.eorAbx 0x1234),
     some (.lsrAbx 0x1234), some (.sreAbx 0x1234)] := by decide

theorem test_decode_row_6 :
    [(8, 0x60), (16, 0x3461), (8, 0x62), (16, 0x3463), (16, 0x3464), (16, 0x3465), (16, 0x3466),
     (16, 0x3467), (8, 0x68), (16, 0x3469), (8, 0x6A), (16, 0x346B), (24, 0x12346C), (24, 0x12346D),
     (24, 0x12346E), (24, 0x12346F)].map (fun c => decodeTableWord c.1 c.2) =
    [some .rts, some (.adcIzx 0x34), some .kil62, some (.rraIzx 0x34), some (.nopZp64 0x34),
     some (.adcZp 0x34), some (.rorZp 0x34), some (.rraZp 0x34), some .pla, some (.adcImm 0x34),
     some .rorAcc, some (.arrImm 0x34), some (.jmpInd 0x1234), some (.adcAbs 0x1234),
     some (.rorAbs 0x1234), some (.rraAbs 0x1234)] := by decide

theorem test_decode_row_7 :
    [(16, 0x3470), (16, 0x3471), (8, 0x72), (16, 0x3473), (16, 0x3474), (16, 0x3475), (16, 0x3476),
     (16, 0x3477), (8, 0x78), (24, 0x123479), (8, 0x7A), (24, 0x12347B), (24, 0x12347C), (24, 0x12347D),
     (24, 0x12347E), (24, 0x12347F)].map (fun c => decodeTableWord c.1 c.2) =
    [some (.bvsRel 0x34), some (.adcIzy 0x34), some .kil72, some (.rraIzy 0x34), some (.nopZpx74 0x34),
     some (.adcZpx 0x34), some (.rorZpx 0x34), some (.rraZpx 0x34), some .sei, some (.adcAby 0x1234),
     some .nopImp7A, some (.rraAby 0x1234), some (.nopAbx7C 0x1234), some (.adcAbx 0x1234),
     some (.rorAbx 0x1234), some (.rraAbx 0x1234)] := by decide

theorem test_decode_row_8 :
    [(16, 0x3480), (16, 0x3481), (16, 0x3482), (16, 0x3483), (16, 0x3484), (16, 0x3485), (16, 0x3486),
     (16, 0x3487), (8, 0x88), (16, 0x3489), (8, 0x8A), (16, 0x348B), (24, 0x12348C), (24, 0x12348D),
     (24, 0x12348E), (24, 0x12348F)].map (fun c => decodeTableWord c.1 c.2) =
    [some (.nopImm80 0x34), some (.staIzx 0x34), some (.nopImm82 0x34), some (.saxIzx 0x34),
     some (.styZp 0x34), some (.staZp 0x34), some (.stxZp 0x34), some (.saxZp 0x34), some .dey,
     some (.nopImm89 0x34), some .txa, some (.xaaImm 0x34), some (.styAbs 0x1234),
     some (.staAbs 0x1234), some (.stxAbs 0x1234), some (.saxAbs 0x1234)] := by decide

theorem test_decode_row_9 :
    [(16, 0x3490), (16, 0x3491), (8, 0x92), (16, 0x3493), (16, 0x3494), (16, 0x3495), (16, 0x3496),
     (16, 0x3497), (8, 0x98), (24, 0x123499), (8, 0x9A), (24, 0x12349B), (24, 0x12349C), (24, 0x12349D),
     (24, 0x12349E), (24, 0x12349F)].map (fun c => decodeTableWord c.1 c.2) =
    [some (.bccRel 0x34), some (.staIzy 0x34), some .kil92, some (.ahxIzy 0x34), some (.styZpx 0x34),
     some (.staZpx 0x34), some (.stxZpy 0x34), some (.saxZpy 0x34), some .tya, some (.staAby 0x1234),
     some .txs, some (.tasAby 0x1234), some (.shyAbx 0x1234), some (.staAbx 0x1234),
     some (.shxAby 0x1234), some (.ahxAby 0x1234)] := by decide

theorem test_decode_row_A :
    [(16, 0x34A0), (16, 0x34A1), (16, 0x34A2), (16, 0x34A3), (16, 0x34A4), (16, 0x34A5), (16, 0x34A6),
     (16, 0x34A7), (8, 0xA8), (16, 0x34A9), (8, 0xAA), (16, 0x34AB), (24, 0x1234AC), (24, 0x1234AD),
     (24, 0x1234AE), (24, 0x1234AF)].map (fun c => decodeTableWord c.1 c.2) =
    [some (.ldyImm 0x34), some (.ldaIzx 0x34), some (.ldxImm 0x34), some (.laxIzx 0x34),
     some (.ldyZp 0x34), some (.ldaZp 0x34), some (.ldxZp 0x34), some (.laxZp 0x34), some .tay,
     some (.ldaImm 0x34), some .tax, some (.laxImm 0x34), some (.ldyAbs 0x1234), some (.ldaAbs 0x1234),
     some (.ldxAbs 0x1234), some (.laxAbs 0x1234)] := by decide

theorem test_decode_row_B :
    [(16, 0x34B0), (16, 0x34B1), (8, 0xB2), (16, 0x34B3), (16, 0x34B4), (16, 0x34B5), (16, 0x34B6),
     (16, 0x34B7), (8, 0xB8), (24, 0x1234B9), (8, 0xBA), (24, 0x1234BB), (24, 0x1234BC), (24, 0x1234BD),
     (24, 0x1234BE), (24, 0x1234BF)].map (fun c => decodeTableWord c.1 c.2) =
    [some (.bcsRel 0x34), some (.ldaIzy 0x34), some .kilB2, some (.laxIzy 0x34), some (.ldyZpx 0x34),
     some (.ldaZpx 0x34), some (.ldxZpy 0x34), some (.laxZpy 0x34), some .clv, some (.ldaAby 0x1234),
     some .tsx, some (.lasAby 0x1234), some (.ldyAbx 0x1234), some (.ldaAbx 0x1234),
     some (.ldxAby 0x1234), some (.laxAby 0x1234)] := by decide

theorem test_decode_row_C :
    [(16, 0x34C0), (16, 0x34C1), (16, 0x34C2), (16, 0x34C3), (16, 0x34C4), (16, 0x34C5), (16, 0x34C6),
     (16, 0x34C7), (8, 0xC8), (16, 0x34C9), (8, 0xCA), (16, 0x34CB), (24, 0x1234CC), (24, 0x1234CD),
     (24, 0x1234CE), (24, 0x1234CF)].map (fun c => decodeTableWord c.1 c.2) =
    [some (.cpyImm 0x34), some (.cmpIzx 0x34), some (.nopImmC2 0x34), some (.dcpIzx 0x34),
     some (.cpyZp 0x34), some (.cmpZp 0x34), some (.decZp 0x34), some (.dcpZp 0x34), some .iny,
     some (.cmpImm 0x34), some .dex, some (.axsImm 0x34), some (.cpyAbs 0x1234), some (.cmpAbs 0x1234),
     some (.decAbs 0x1234), some (.dcpAbs 0x1234)] := by decide

theorem test_decode_row_D :
    [(16, 0x34D0), (16, 0x34D1), (8, 0xD2), (16, 0x34D3), (16, 0x34D4), (16, 0x34D5), (16, 0x34D6),
     (16, 0x34D7), (8, 0xD8), (24, 0x1234D9), (8, 0xDA), (24, 0x1234DB), (24, 0x1234DC), (24, 0x1234DD),
     (24, 0x1234DE), (24, 0x1234DF)].map (fun c => decodeTableWord c.1 c.2) =
    [some (.bneRel 0x34), some (.cmpIzy 0x34), some .kilD2, some (.dcpIzy 0x34), some (.nopZpxD4 0x34),
     some (.cmpZpx 0x34), some (.decZpx 0x34), some (.dcpZpx 0x34), some .cld, some (.cmpAby 0x1234),
     some .nopImpDA, some (.dcpAby 0x1234), some (.nopAbxDC 0x1234), some (.cmpAbx 0x1234),
     some (.decAbx 0x1234), some (.dcpAbx 0x1234)] := by decide

theorem test_decode_row_E :
    [(16, 0x34E0), (16, 0x34E1), (16, 0x34E2), (16, 0x34E3), (16, 0x34E4), (16, 0x34E5), (16, 0x34E6),
     (16, 0x34E7), (8, 0xE8), (16, 0x34E9), (8, 0xEA), (16, 0x34EB), (24, 0x1234EC), (24, 0x1234ED),
     (24, 0x1234EE), (24, 0x1234EF)].map (fun c => decodeTableWord c.1 c.2) =
    [some (.cpxImm 0x34), some (.sbcIzx 0x34), some (.nopImmE2 0x34), some (.iscIzx 0x34),
     some (.cpxZp 0x34), some (.sbcZp 0x34), some (.incZp 0x34), some (.iscZp 0x34), some .inx,
     some (.sbcImm 0x34), some .nop, some (.sbcImmEB 0x34), some (.cpxAbs 0x1234),
     some (.sbcAbs 0x1234), some (.incAbs 0x1234), some (.iscAbs 0x1234)] := by decide

theorem test_decode_row_F :
    [(16, 0x34F0), (16, 0x34F1), (8, 0xF2), (16, 0x34F3), (16, 0x34F4), (16, 0x34F5), (16, 0x34F6),
     (16, 0x34F7), (8, 0xF8), (24, 0x1234F9), (8, 0xFA), (24, 0x1234FB), (24, 0x1234FC), (24, 0x1234FD),
     (24, 0x1234FE), (24, 0x1234FF)].map (fun c => decodeTableWord c.1 c.2) =
    [some (.beqRel 0x34), some (.sbcIzy 0x34), some .kilF2, some (.iscIzy 0x34), some (.nopZpxF4 0x34),
     some (.sbcZpx 0x34), some (.incZpx 0x34), some (.iscZpx 0x34), some .sed, some (.sbcAby 0x1234),
     some .nopImpFA, some (.iscAby 0x1234), some (.nopAbxFC 0x1234), some (.sbcAbx 0x1234),
     some (.incAbx 0x1234), some (.iscAbx 0x1234)] := by decide

/-- R101, R109: the table gives a row its opcode byte only, and the operand bytes above it are zero. -/
theorem test_decode_opcode_only : decodeTableWord 8 0xAD = some (.ldaAbs 0x0000) := by decide

/-- R109: an instruction whose operand bytes are missing is refused, by name. -/
theorem test_decode_truncated : (match decode [0xAD, 0x34] with
    | .error (.truncated op) => some op
    | _ => none) = some 0xAD := by decide

/-! ### One step per test, with the results of spec/95_test_vectors.md, part 2 -/

/-! V1 -/

/-- R134: LDA $F0,X. -/
theorem test_ldaZpx_a : after (fun t => (t.a, t.p, t.cyclesLeft))
    { flatMachine 0x8000 [(0x0010, 0x77), (0x0110, 0x99), (0x8000, 0xB5), (0x8001, 0xF0)] with x := 0x20 } =
    some (0x77, 0x00, 3) := by decide

/-- R135: LDX $FF,Y. -/
theorem test_ldxZpy_a : after (fun t => (t.x, t.p, t.cyclesLeft))
    { flatMachine 0x8000 [(0x0001, 0x33), (0x0101, 0x99), (0x8000, 0xB6), (0x8001, 0xFF)] with y := 0x02 } =
    some (0x33, 0x00, 3) := by decide

/-- R136: LDA $1234. -/
theorem test_ldaAbs_a : after (fun t => (t.a, t.p, t.cyclesLeft))
    (flatMachine 0x8000 [(0x1234, 0x56), (0x8000, 0xAD), (0x8001, 0x34), (0x8002, 0x12)]) =
    some (0x56, 0x00, 3) := by decide

/-- R137: LDA $12F0,X. -/
theorem test_ldaAbx_a : after (fun t => (t.a, t.p, t.cyclesLeft))
    { flatMachine 0x8000 [(0x1210, 0xBB), (0x1310, 0xCC),
        (0x8000, 0xBD), (0x8001, 0xF0), (0x8002, 0x12)] with x := 0x20 } =
    some (0xBB, 0x80, 4) := by decide

/-- R138: LDA $02FF,Y. -/
theorem test_ldaAby_a : after (fun t => (t.a, t.p, t.cyclesLeft))
    { flatMachine 0x8000 [(0x0200, 0x11), (0x0300, 0x22),
        (0x8000, 0xB9), (0x8001, 0xFF), (0x8002, 0x02)] with y := 0x01 } =
    some (0x11, 0x00, 4) := by decide

/-- R137: STA $12F0,X. -/
theorem test_staAbx_a : after (fun t => (t.p, t.flat.get 0x1210, t.cyclesLeft))
    { flatMachine 0x8000 [(0x8000, 0x9D), (0x8001, 0xF0), (0x8002, 0x12)] with a := 0x5A, x := 0x20 } =
    some (0x00, 0x5A, 4) := by decide

/-- R137: LDY $0380,X. -/
theorem test_ldyAbx_a : after (fun t => (t.y, t.p, t.cyclesLeft))
    { flatMachine 0x8000 [(0x0300, 0x01), (0x0400, 0x02),
        (0x8000, 0xBC), (0x8001, 0x80), (0x8002, 0x03)] with x := 0x80 } =
    some (0x01, 0x00, 4) := by decide

/-- R140: LDA ($FE,X). -/
theorem test_ldaIzx_a : after (fun t => (t.a, t.p, t.cyclesLeft))
    { flatMachine 0x8000 [(0x0000, 0x12), (0x00FF, 0x34), (0x0100, 0x99),
        (0x1234, 0x5E), (0x8000, 0xA1), (0x8001, 0xFE)] with x := 0x01 } =
    some (0x5E, 0x00, 5) := by decide

/-- R141: LDA ($86),Y. -/
theorem test_ldaIzy_a : after (fun t => (t.a, t.p, t.cyclesLeft))
    { flatMachine 0x8000 [(0x0086, 0xF8), (0x0087, 0x40), (0x4008, 0x99),
        (0x4108, 0x3C), (0x8000, 0xB1), (0x8001, 0x86)] with y := 0x10 } =
    some (0x3C, 0x00, 5) := by decide

/-- R141: LDA ($10),Y. -/
theorem test_ldaIzy_b : after (fun t => (t.a, t.p, t.cyclesLeft))
    { flatMachine 0x8000 [(0x0000, 0x7E), (0x0010, 0xFF),
        (0x0011, 0xFF), (0x8000, 0xB1), (0x8001, 0x10)] with y := 0x01 } =
    some (0x7E, 0x00, 5) := by decide

/-- R141: STA ($40),Y. -/
theorem test_staIzy_a : after (fun t => (t.p, t.flat.get 0x0300, t.cyclesLeft))
    { flatMachine 0x8000 [(0x0040, 0x01), (0x0041, 0x02),
        (0x8000, 0x91), (0x8001, 0x40)] with a := 0x66, y := 0xFF } =
    some (0x00, 0x66, 5) := by decide

/-- R132: LDA #$80. -/
theorem test_ldaImm_a : after (fun t => (t.a, t.p, t.cyclesLeft))
    (flatMachine 0x8000 [(0x8000, 0xA9), (0x8001, 0x80)]) =
    some (0x80, 0x80, 1) := by decide

/-! V2 -/

/-- R151: LDX #$FF. -/
theorem test_ldxImm_a : after (fun t => (t.x, t.p, t.cyclesLeft))
    (flatMachine 0x8000 [(0x8000, 0xA2), (0x8001, 0xFF)]) =
    some (0xFF, 0x80, 1) := by decide

/-- R152: LDY #$7F. -/
theorem test_ldyImm_a : after (fun t => (t.y, t.p, t.cyclesLeft))
    { flatMachine 0x8000 [(0x8000, 0xA0), (0x8001, 0x7F)] with p := 0x82 } =
    some (0x7F, 0x00, 1) := by decide

/-- R153: STA $10. -/
theorem test_staZp_a : after (fun t => (t.p, t.flat.get 0x0010, t.cyclesLeft))
    (flatMachine 0x8000 [(0x8000, 0x85), (0x8001, 0x10)]) =
    some (0x00, 0x00, 2) := by decide

/-- R154: STX $10,Y. -/
theorem test_stxZpy_a : after (fun t => (t.p, t.flat.get 0x0008, t.cyclesLeft))
    { flatMachine 0x8000 [(0x8000, 0x96), (0x8001, 0x10)] with x := 0x80, y := 0xF8 } =
    some (0x00, 0x80, 3) := by decide

/-- R155: STY $1234. -/
theorem test_styAbs_a : after (fun t => (t.p, t.flat.get 0x1234, t.cyclesLeft))
    { flatMachine 0x8000 [(0x8000, 0x8C), (0x8001, 0x34), (0x8002, 0x12)] with y := 0x01 } =
    some (0x00, 0x01, 3) := by decide

/-- R156: TAX. -/
theorem test_tax_a : after (fun t => (t.x, t.p, t.cyclesLeft))
    { flatMachine 0x8000 [(0x8000, 0xAA)] with x := 0x05 } =
    some (0x00, 0x02, 1) := by decide

/-- R157: TAY. -/
theorem test_tay_a : after (fun t => (t.y, t.p, t.cyclesLeft))
    { flatMachine 0x8000 [(0x8000, 0xA8)] with a := 0x80 } =
    some (0x80, 0x80, 1) := by decide

/-- R158: TXA. -/
theorem test_txa_a : after (fun t => (t.a, t.p, t.cyclesLeft))
    { flatMachine 0x8000 [(0x8000, 0x8A)] with a := 0x80, x := 0x7F, p := 0x80 } =
    some (0x7F, 0x00, 1) := by decide

/-- R159: TYA. -/
theorem test_tya_a : after (fun t => (t.a, t.p, t.cyclesLeft))
    { flatMachine 0x8000 [(0x8000, 0x98)] with y := 0xFF } =
    some (0xFF, 0x80, 1) := by decide

/-- R160: TSX. -/
theorem test_tsx_a : after (fun t => (t.x, t.p, t.cyclesLeft))
    { flatMachine 0x8000 [(0x8000, 0xBA)] with sp := 0x80 } =
    some (0x80, 0x80, 1) := by decide

/-- R161: TXS. -/
theorem test_txs_a : after (fun t => (t.sp, t.p, t.cyclesLeft))
    { flatMachine 0x8000 [(0x8000, 0x9A)] with x := 0x80, p := 0x02 } =
    some (0x80, 0x02, 1) := by decide

/-! V3 -/

/-- R170: ADC #$50. -/
theorem test_adcImm_a : after (fun t => (t.a, t.p, t.cyclesLeft))
    { flatMachine 0x8000 [(0x8000, 0x69), (0x8001, 0x50)] with a := 0x50 } =
    some (0xA0, 0xC0, 1) := by decide

/-- R170: ADC #$90. -/
theorem test_adcImm_b : after (fun t => (t.a, t.p, t.cyclesLeft))
    { flatMachine 0x8000 [(0x8000, 0x69), (0x8001, 0x90)] with a := 0xD0 } =
    some (0x60, 0x41, 1) := by decide

/-- R170: ADC $12F0,X. -/
theorem test_adcAbx_a : after (fun t => (t.a, t.p, t.cyclesLeft))
    { flatMachine 0x8000 [(0x1210, 0x02), (0x8000, 0x7D),
        (0x8001, 0xF0), (0x8002, 0x12)] with a := 0x01, x := 0x20 } =
    some (0x03, 0x00, 4) := by decide

/-- R171: SBC #$B0. -/
theorem test_sbcImm_a : after (fun t => (t.a, t.p, t.cyclesLeft))
    { flatMachine 0x8000 [(0x8000, 0xE9), (0x8001, 0xB0)] with a := 0x50, p := 0x01 } =
    some (0xA0, 0xC0, 1) := by decide

/-- R171: SBC #$01. -/
theorem test_sbcImm_b : after (fun t => (t.a, t.p, t.cyclesLeft))
    { flatMachine 0x8000 [(0x8000, 0xE9), (0x8001, 0x01)] with p := 0x01 } =
    some (0xFF, 0x80, 1) := by decide

/-! V4 -/

/-- R172: AND #$F0. -/
theorem test_andImm_a : after (fun t => (t.a, t.p, t.cyclesLeft))
    { flatMachine 0x8000 [(0x8000, 0x29), (0x8001, 0xF0)] with a := 0x0F, p := 0x80 } =
    some (0x00, 0x02, 1) := by decide

/-- R173: ORA #$80. -/
theorem test_oraImm_a : after (fun t => (t.a, t.p, t.cyclesLeft))
    { flatMachine 0x8000 [(0x8000, 0x09), (0x8001, 0x80)] with a := 0x01 } =
    some (0x81, 0x80, 1) := by decide

/-- R173: ORA $ABCD. -/
theorem test_oraAbs_a : after (fun t => (t.a, t.p, t.cyclesLeft))
    { flatMachine 0x8000 [(0x8000, 0x0D), (0x8001, 0xCD), (0x8002, 0xAB), (0xABCD, 0x30)] with a := 0x0F } =
    some (0x3F, 0x00, 3) := by decide

/-- R174: EOR #$F0. -/
theorem test_eorImm_a : after (fun t => (t.a, t.p, t.cyclesLeft))
    { flatMachine 0x8000 [(0x8000, 0x49), (0x8001, 0xF0)] with a := 0x0F } =
    some (0xFF, 0x80, 1) := by decide

/-- R178: BIT $10. -/
theorem test_bitZp_a : after (fun t => (t.p, t.cyclesLeft))
    { flatMachine 0x8000 [(0x0010, 0xC0), (0x8000, 0x24), (0x8001, 0x10)] with a := 0x01 } =
    some (0xC2, 2) := by decide

/-- R178: BIT $0300. -/
theorem test_bitAbs_a : after (fun t => (t.p, t.cyclesLeft))
    { flatMachine 0x8000 [(0x0300, 0x40), (0x8000, 0x2C), (0x8002, 0x03)] with a := 0x40 } =
    some (0x40, 3) := by decide

/-! V5 -/

/-- R175: CMP #$20. -/
theorem test_cmpImm_a : after (fun t => (t.p, t.cyclesLeft))
    { flatMachine 0x8000 [(0x8000, 0xC9), (0x8001, 0x20)] with a := 0x10 } =
    some (0x80, 1) := by decide

/-- R175: CMP #$00. -/
theorem test_cmpImm_b : after (fun t => (t.p, t.cyclesLeft))
    { flatMachine 0x8000 [(0x8000, 0xC9)] with a := 0xFF } =
    some (0x81, 1) := by decide

/-- R176: CPX #$06. -/
theorem test_cpxImm_a : after (fun t => (t.p, t.cyclesLeft))
    { flatMachine 0x8000 [(0x8000, 0xE0), (0x8001, 0x06)] with x := 0x05 } =
    some (0x80, 1) := by decide

/-- R177: CPY #$80. -/
theorem test_cpyImm_a : after (fun t => (t.p, t.cyclesLeft))
    { flatMachine 0x8000 [(0x8000, 0xC0), (0x8001, 0x80)] with y := 0x80 } =
    some (0x03, 1) := by decide

/-! V6 -/

/-- R179: INC $10. -/
theorem test_incZp_a : after (fun t => (t.p, t.flat.get 0x0010, t.cyclesLeft))
    (flatMachine 0x8000 [(0x0010, 0xFF), (0x8000, 0xE6), (0x8001, 0x10)]) =
    some (0x02, 0x00, 4) := by decide

/-- R180: DEC $0300. -/
theorem test_decAbs_a : after (fun t => (t.p, t.flat.get 0x0300, t.cyclesLeft))
    (flatMachine 0x8000 [(0x0300, 0x01), (0x8000, 0xCE), (0x8002, 0x03)]) =
    some (0x02, 0x00, 5) := by decide

/-- R179: INC $02FF,X. -/
theorem test_incAbx_a : after (fun t => (t.p, t.flat.get 0x0200, t.cyclesLeft))
    { flatMachine 0x8000 [(0x0200, 0x0F), (0x0300, 0x99),
        (0x8000, 0xFE), (0x8001, 0xFF), (0x8002, 0x02)] with x := 0x01 } =
    some (0x00, 0x10, 6) := by decide

/-- R181: INX. -/
theorem test_inx_a : after (fun t => (t.x, t.p, t.cyclesLeft))
    { flatMachine 0x8000 [(0x8000, 0xE8)] with x := 0xFF } =
    some (0x00, 0x02, 1) := by decide

/-- R182: INY. -/
theorem test_iny_a : after (fun t => (t.y, t.p, t.cyclesLeft))
    { flatMachine 0x8000 [(0x8000, 0xC8)] with y := 0x7F } =
    some (0x80, 0x80, 1) := by decide

/-- R183: DEX. -/
theorem test_dex_a : after (fun t => (t.x, t.p, t.cyclesLeft))
    (flatMachine 0x8000 [(0x8000, 0xCA)]) =
    some (0xFF, 0x80, 1) := by decide

/-- R184: DEY. -/
theorem test_dey_a : after (fun t => (t.y, t.p, t.cyclesLeft))
    { flatMachine 0x8000 [(0x8000, 0x88)] with y := 0x01 } =
    some (0x00, 0x02, 1) := by decide

/-! V7 -/

/-- R200: ASL A. -/
theorem test_aslAcc_a : after (fun t => (t.a, t.p, t.cyclesLeft))
    { flatMachine 0x8000 [(0x8000, 0x0A)] with a := 0x81 } =
    some (0x02, 0x01, 1) := by decide

/-- R200: ASL $0300. -/
theorem test_aslAbs_a : after (fun t => (t.p, t.flat.get 0x0300, t.cyclesLeft))
    (flatMachine 0x8000 [(0x0300, 0xFF), (0x8000, 0x0E), (0x8002, 0x03)]) =
    some (0x81, 0xFE, 5) := by decide

/-- R201: LSR A. -/
theorem test_lsrAcc_a : after (fun t => (t.a, t.p, t.cyclesLeft))
    { flatMachine 0x8000 [(0x8000, 0x4A)] with a := 0x01, p := 0x80 } =
    some (0x00, 0x03, 1) := by decide

/-- R201: LSR $10. -/
theorem test_lsrZp_a : after (fun t => (t.p, t.flat.get 0x0010, t.cyclesLeft))
    (flatMachine 0x8000 [(0x0010, 0x80), (0x8000, 0x46), (0x8001, 0x10)]) =
    some (0x00, 0x40, 4) := by decide

/-- R202: ROL A. -/
theorem test_rolAcc_a : after (fun t => (t.a, t.p, t.cyclesLeft))
    { flatMachine 0x8000 [(0x8000, 0x2A)] with a := 0x80, p := 0x01 } =
    some (0x01, 0x01, 1) := by decide

/-- R202: ROL $10. -/
theorem test_rolZp_a : after (fun t => (t.p, t.flat.get 0x0010, t.cyclesLeft))
    { flatMachine 0x8000 [(0x0010, 0x7F), (0x8000, 0x26), (0x8001, 0x10)] with p := 0x01 } =
    some (0x80, 0xFF, 4) := by decide

/-- R203: ROR A. -/
theorem test_rorAcc_a : after (fun t => (t.a, t.p, t.cyclesLeft))
    { flatMachine 0x8000 [(0x8000, 0x6A)] with a := 0x01, p := 0x01 } =
    some (0x80, 0x81, 1) := by decide

/-- R203: ROR $02FF,X. -/
theorem test_rorAbx_a : after (fun t => (t.p, t.flat.get 0x0200, t.cyclesLeft))
    { flatMachine 0x8000 [(0x0200, 0x02), (0x0300, 0x99),
        (0x8000, 0x7E), (0x8001, 0xFF), (0x8002, 0x02)] with x := 0x01, p := 0x01 } =
    some (0x80, 0x81, 6) := by decide

/-! V8 -/

/-- R210: JMP $9000. -/
theorem test_jmpAbs_a : after (fun t => (t.p, t.pc, t.cyclesLeft))
    (flatMachine 0x8000 [(0x8000, 0x4C), (0x8002, 0x90)]) =
    some (0x00, 0x9000, 2) := by decide

/-- R210, R139: JMP ($02FF). -/
theorem test_jmpInd_a : after (fun t => (t.p, t.pc, t.cyclesLeft))
    (flatMachine 0x8000 [(0x0200, 0x40), (0x0300, 0x50), (0x8000, 0x6C), (0x8001, 0xFF), (0x8002, 0x02)]) =
    some (0x00, 0x4000, 4) := by decide

/-- R211: JSR $1234 (S wraps). -/
theorem test_jsrAbs_a : after (fun t => (t.sp, t.p, t.pc, [0x0100, 0x01FF].map t.flat.get, t.cyclesLeft))
    { flatMachine 0x8000 [(0x8000, 0x20), (0x8001, 0x34), (0x8002, 0x12)] with sp := 0x00 } =
    some (0xFE, 0x00, 0x1234, [0x80, 0x02], 5) := by decide

/-- R212: RTS (S and PC wrap). -/
theorem test_rts_a : after (fun t => (t.sp, t.p, t.pc, t.cyclesLeft))
    { flatMachine 0x8000 [(0x0100, 0xFF), (0x01FF, 0xFF), (0x8000, 0x60)] with sp := 0xFE } =
    some (0x00, 0x00, 0x0000, 5) := by decide

/-- R216: BNE +5 (taken). -/
theorem test_bneRel_a : after (fun t => (t.p, t.pc, t.cyclesLeft))
    (flatMachine 0x8000 [(0x8000, 0xD0), (0x8001, 0x05)]) =
    some (0x00, 0x8007, 1) := by decide

/-- R215: BEQ -4 (taken, crosses page). -/
theorem test_beqRel_a : after (fun t => (t.p, t.pc, t.cyclesLeft))
    { flatMachine 0x8000 [(0x8000, 0xF0), (0x8001, 0xFC)] with p := 0x02 } =
    some (0x02, 0x7FFE, 2) := by decide

/-- R213: BCC -3 (taken, crosses). -/
theorem test_bccRel_a : after (fun t => (t.p, t.pc, t.cyclesLeft))
    (flatMachine 0x8000 [(0x8000, 0x90), (0x8001, 0xFD)]) =
    some (0x00, 0x7FFF, 2) := by decide

/-- R214: BCS +127 (taken, crosses). -/
theorem test_bcsRel_a : after (fun t => (t.p, t.pc, t.cyclesLeft))
    { flatMachine 0x80F0 [(0x80F0, 0xB0), (0x80F1, 0x7F)] with p := 0x01 } =
    some (0x01, 0x8171, 2) := by decide

/-- R217: BMI +16 (taken). -/
theorem test_bmiRel_a : after (fun t => (t.p, t.pc, t.cyclesLeft))
    { flatMachine 0x8000 [(0x8000, 0x30), (0x8001, 0x10)] with p := 0x80 } =
    some (0x80, 0x8012, 1) := by decide

/-- R218: BPL +16 (taken). -/
theorem test_bplRel_a : after (fun t => (t.p, t.pc, t.cyclesLeft))
    (flatMachine 0x8000 [(0x8000, 0x10), (0x8001, 0x10)]) =
    some (0x00, 0x8012, 1) := by decide

/-- R220: BVS -128 (taken, same page). -/
theorem test_bvsRel_a : after (fun t => (t.p, t.pc, t.cyclesLeft))
    { flatMachine 0x8080 [(0x8080, 0x70), (0x8081, 0x80)] with p := 0x40 } =
    some (0x40, 0x8002, 1) := by decide

/-- R219: BVC +16 (taken). -/
theorem test_bvcRel_a : after (fun t => (t.p, t.pc, t.cyclesLeft))
    (flatMachine 0x8000 [(0x8000, 0x50), (0x8001, 0x10)]) =
    some (0x00, 0x8012, 1) := by decide

/-- R216, R142: BNE +16 (taken, wraps address space). -/
theorem test_bneRel_b : after (fun t => (t.p, t.pc, t.cyclesLeft))
    (flatMachine 0xFFF8 [(0xFFF8, 0xD0), (0xFFF9, 0x10)]) =
    some (0x00, 0x000A, 2) := by decide

/-! V9 -/

/-- R230: PHA (S wraps). -/
theorem test_pha_a : after (fun t => (t.sp, t.p, t.flat.get 0x0100, t.cyclesLeft))
    { flatMachine 0x8000 [(0x8000, 0x48)] with a := 0x42, sp := 0x00 } =
    some (0xFF, 0x00, 0x42, 2) := by decide

/-- R231: PLA (S wraps). -/
theorem test_pla_a : after (fun t => (t.a, t.sp, t.p, t.cyclesLeft))
    { flatMachine 0x8000 [(0x8000, 0x68)] with a := 0x55 } =
    some (0x00, 0x00, 0x02, 3) := by decide

/-- R232: PHP. -/
theorem test_php_a : after (fun t => (t.sp, t.p, t.flat.get 0x01FF, t.cyclesLeft))
    { flatMachine 0x8000 [(0x8000, 0x08)] with p := 0xC3 } =
    some (0xFE, 0xF3, 0xF3, 2) := by decide

/-- R233: PLP. -/
theorem test_plp_a : after (fun t => (t.sp, t.p, t.cyclesLeft))
    { flatMachine 0x8000 [(0x01FF, 0xFF), (0x8000, 0x28)] with sp := 0xFE } =
    some (0xFF, 0xFF, 3) := by decide

/-- R235: SEC. -/
theorem test_sec_a : after (fun t => (t.p, t.cyclesLeft))
    (flatMachine 0x8000 [(0x8000, 0x38)]) =
    some (0x01, 1) := by decide

/-- R234: CLC. -/
theorem test_clc_a : after (fun t => (t.p, t.cyclesLeft))
    { flatMachine 0x8000 [(0x8000, 0x18)] with p := 0xFF } =
    some (0xFE, 1) := by decide

/-- R237: SEI. -/
theorem test_sei_a : after (fun t => (t.p, t.cyclesLeft))
    (flatMachine 0x8000 [(0x8000, 0x78)]) =
    some (0x04, 1) := by decide

/-- R236: CLI. -/
theorem test_cli_a : after (fun t => (t.p, t.cyclesLeft))
    { flatMachine 0x8000 [(0x8000, 0x58)] with p := 0xFF } =
    some (0xFB, 1) := by decide

/-- R239: SED. -/
theorem test_sed_a : after (fun t => (t.p, t.cyclesLeft))
    (flatMachine 0x8000 [(0x8000, 0xF8)]) =
    some (0x08, 1) := by decide

/-- R238: CLD. -/
theorem test_cld_a : after (fun t => (t.p, t.cyclesLeft))
    { flatMachine 0x8000 [(0x8000, 0xD8)] with p := 0xFF } =
    some (0xF7, 1) := by decide

/-- R240: CLV. -/
theorem test_clv_a : after (fun t => (t.p, t.cyclesLeft))
    { flatMachine 0x8000 [(0x8000, 0xB8)] with p := 0xFF } =
    some (0xBF, 1) := by decide

/-- R241: NOP. -/
theorem test_nop_a : after (fun t => (t.p, t.cyclesLeft))
    { flatMachine 0x8000 [(0x8000, 0xEA)] with a := 0x12, x := 0x34, y := 0x56, p := 0xA5 } =
    some (0xA5, 1) := by decide

/-- R242: BRK. -/
theorem test_brk_a : after (fun t => (t.sp, t.p, t.pc, [0x01FF, 0x01FE, 0x01FD].map t.flat.get, t.cyclesLeft))
    { flatMachine 0x8000 [(0x8001, 0xEA), (0xFFFF, 0x90)] with p := 0x01 } =
    some (0xFC, 0x35, 0x9000, [0x80, 0x02, 0x31], 6) := by decide

/-- R242: BRK (I already set, S wraps). -/
theorem test_brk_b : after (fun t => (t.sp, t.p, t.pc, [0x0101, 0x0100, 0x01FF].map t.flat.get, t.cyclesLeft))
    { flatMachine 0x80FF [(0xFFFE, 0x34), (0xFFFF, 0x12)] with sp := 0x01, p := 0x04 } =
    some (0xFE, 0x34, 0x1234, [0x81, 0x01, 0x34], 6) := by decide

/-- R243: RTI (S wraps). -/
theorem test_rti_a : after (fun t => (t.sp, t.p, t.pc, t.cyclesLeft))
    { flatMachine 0x9000 [(0x0101, 0x80), (0x01FF, 0xC3), (0x9000, 0x40)] with sp := 0xFE } =
    some (0x01, 0xC3, 0x8000, 5) := by decide

/-! V10 -/

/-- R262: SLO $10. -/
theorem test_sloZp_stub : after (fun t => (t.p, t.cyclesLeft))
    { flatMachine 0x8000 [(0x0010, 0x81), (0x8000, 0x07), (0x8001, 0x10)] with a := 0x01 } =
    some (0x00, 4) := by decide

/-- R266: SAX $10. -/
theorem test_saxZp_stub : after (fun t => (t.p, t.cyclesLeft))
    { flatMachine 0x8000 [(0x8000, 0x87), (0x8001, 0x10)] with a := 0xF0, x := 0x3C } =
    some (0x00, 2) := by decide

/-- R267: LAX #$55. -/
theorem test_laxImm_stub : after (fun t => (t.p, t.cyclesLeft))
    (flatMachine 0x8000 [(0x8000, 0xAB), (0x8001, 0x55)]) =
    some (0x00, 1) := by decide

/-- R273: XAA #$00. -/
theorem test_xaaImm_stub : after (fun t => (t.p, t.cyclesLeft))
    { flatMachine 0x8000 [(0x8000, 0x8B)] with a := 0xFF, x := 0xFF } =
    some (0x00, 1) := by decide

/-- R276: SHY $0300,X. -/
theorem test_shyAbx_stub : after (fun t => (t.p, t.cyclesLeft))
    { flatMachine 0x8000 [(0x8000, 0x9C), (0x8002, 0x03)] with y := 0xFF } =
    some (0x00, 4) := by decide

/-- R278: TAS $0300,Y. -/
theorem test_tasAby_stub : after (fun t => (t.p, t.cyclesLeft))
    { flatMachine 0x8000 [(0x8000, 0x9B), (0x8002, 0x03)] with a := 0x0F, x := 0x0F } =
    some (0x00, 4) := by decide

/-- R280: KIL. -/
theorem test_kil02_a : after (fun t => (t.p, t.cyclesLeft))
    (flatMachine 0x8000 [(0x8000, 0x02)]) =
    some (0x00, 1) := by decide

/-- R281: NOP $02FF,X. -/
theorem test_nopAbx1C_a : after (fun t => (t.p, t.cyclesLeft))
    { flatMachine 0x8000 [(0x8000, 0x1C), (0x8001, 0xFF), (0x8002, 0x02)] with x := 0x01 } =
    some (0x00, 4) := by decide

/-- R281: NOP $10. -/
theorem test_nopZp04_a : after (fun t => (t.p, t.cyclesLeft))
    (flatMachine 0x8000 [(0x8000, 0x04), (0x8001, 0x10)]) =
    some (0x00, 2) := by decide

/-- R282: SBC #$01. -/
theorem test_sbcImmEB_a : after (fun t => (t.a, t.p, t.cyclesLeft))
    { flatMachine 0x8000 [(0x8000, 0xEB), (0x8001, 0x01)] with a := 0x03, p := 0x01 } =
    some (0x02, 0x01, 1) := by decide

/-! V10b -/

/-- R262: SLO $10. -/
theorem test_sloZp_reference : after (fun t => (t.a, t.p, t.flat.get 0x0010, t.cyclesLeft))
    { flatMachine 0x8000 [(0x0010, 0x81),
        (0x8000, 0x07), (0x8001, 0x10)] with a := 0x01, launch := referenceLaunch } =
    some (0x03, 0x01, 0x02, 4) := by decide

/-- R263: RLA $10. -/
theorem test_rlaZp_reference : after (fun t => (t.a, t.p, t.flat.get 0x0010, t.cyclesLeft))
    { flatMachine 0x8000 [(0x0010, 0x40),
        (0x8000, 0x27), (0x8001, 0x10)] with a := 0xFF, p := 0x01, launch := referenceLaunch } =
    some (0x81, 0x80, 0x81, 4) := by decide

/-- R264: SRE $10. -/
theorem test_sreZp_reference : after (fun t => (t.a, t.p, t.flat.get 0x0010, t.cyclesLeft))
    { flatMachine 0x8000 [(0x0010, 0x03),
        (0x8000, 0x47), (0x8001, 0x10)] with a := 0xFF, launch := referenceLaunch } =
    some (0xFE, 0x81, 0x01, 4) := by decide

/-- R265: RRA $10. -/
theorem test_rraZp_reference : after (fun t => (t.a, t.p, t.flat.get 0x0010, t.cyclesLeft))
    { flatMachine 0x8000 [(0x0010, 0x02),
        (0x8000, 0x67), (0x8001, 0x10)] with a := 0x10, p := 0x01, launch := referenceLaunch } =
    some (0x91, 0x80, 0x81, 4) := by decide

/-- R266: SAX $10. -/
theorem test_saxZp_reference : after (fun t => (t.p, t.flat.get 0x0010, t.cyclesLeft))
    { flatMachine 0x8000 [(0x8000, 0x87), (0x8001, 0x10)] with a := 0xF0, x := 0x3C, launch := referenceLaunch } =
    some (0x00, 0x30, 2) := by decide

/-- R267: LAX $10. -/
theorem test_laxZp_reference : after (fun t => (t.a, t.x, t.p, t.cyclesLeft))
    { flatMachine 0x8000 [(0x0010, 0x80), (0x8000, 0xA7), (0x8001, 0x10)] with launch := referenceLaunch } =
    some (0x80, 0x80, 0x80, 2) := by decide

/-- R268: DCP $10. -/
theorem test_dcpZp_reference : after (fun t => (t.p, t.flat.get 0x0010, t.cyclesLeft))
    { flatMachine 0x8000 [(0x0010, 0x11),
        (0x8000, 0xC7), (0x8001, 0x10)] with a := 0x10, launch := referenceLaunch } =
    some (0x03, 0x10, 4) := by decide

/-- R269: ISC $10. -/
theorem test_iscZp_reference : after (fun t => (t.a, t.p, t.flat.get 0x0010, t.cyclesLeft))
    { flatMachine 0x8000 [(0x0010, 0x0F),
        (0x8000, 0xE7), (0x8001, 0x10)] with a := 0x10, p := 0x01, launch := referenceLaunch } =
    some (0x00, 0x03, 0x10, 4) := by decide

/-- R270: ANC #$7F. -/
theorem test_ancImm2B_reference : after (fun t => (t.a, t.p, t.cyclesLeft))
    { flatMachine 0x8000 [(0x8000, 0x2B), (0x8001, 0x7F)] with a := 0xFF, p := 0x01, launch := referenceLaunch } =
    some (0x7F, 0x00, 1) := by decide

/-- R271: ALR #$03. -/
theorem test_alrImm_reference : after (fun t => (t.a, t.p, t.cyclesLeft))
    { flatMachine 0x8000 [(0x8000, 0x4B), (0x8001, 0x03)] with a := 0xFF, launch := referenceLaunch } =
    some (0x01, 0x01, 1) := by decide

/-- R272: ARR #$FF. -/
theorem test_arrImm_reference : after (fun t => (t.a, t.p, t.cyclesLeft))
    { flatMachine 0x8000 [(0x8000, 0x6B), (0x8001, 0xFF)] with a := 0xC0, p := 0x01, launch := referenceLaunch } =
    some (0xE0, 0x81, 1) := by decide

/-- R274: AXS #$01. -/
theorem test_axsImm_reference : after (fun t => (t.x, t.p, t.cyclesLeft))
    { flatMachine 0x8000 [(0x8000, 0xCB), (0x8001, 0x01)] with a := 0x0F, x := 0x03, launch := referenceLaunch } =
    some (0x02, 0x01, 1) := by decide

/-- R279: LAS $0300,Y. -/
theorem test_lasAby_reference : after (fun t => (t.a, t.x, t.sp, t.p, t.cyclesLeft))
    { flatMachine 0x8000 [(0x0300, 0x3C),
        (0x8000, 0xBB), (0x8002, 0x03)] with sp := 0xF0, launch := referenceLaunch } =
    some (0x30, 0x30, 0x30, 0x00, 3) := by decide

/-- R260, R275, R277: the two illegal stores without a vector; only PC and the countdown change. -/
theorem test_ahxAby_stub : after (fun t => (t.p, t.pc, t.flat.get 0x0300, t.cyclesLeft))
    { flatMachine 0x8000 [(0x8000, 0x9F), (0x8002, 0x03)] with a := 0xFF, x := 0xFF } =
    some (0x00, 0x8003, 0x00, 4) := by decide

theorem test_shxAby_reference : after (fun t => (t.x, t.p, t.pc, t.cyclesLeft))
    { flatMachine 0x8000 [(0x8000, 0x9E), (0x8002, 0x03)] with x := 0xFF, launch := referenceLaunch } =
    some (0xFF, 0x00, 0x8003, 4) := by decide

/-! ### Interrupts (V11), Reset (S2), the Bus (S5, S7, V12), the PPU (V12, V13), the disassembler (S8) -/

/-- R376: NMI; the return address and P with Break 0b10 are pushed. -/
theorem test_nmi_acknowledged : after (fun t => (t.pc, t.p, t.nmiPending, t.cyclesLeft,
      [0x01FF, 0x01FE, 0x01FD].map t.flat.get))
    { flatMachine 0x1234 [(0x1234, 0xEA), (0xFFFB, 0xA0)] with p := 0x01, nmiPending := true } =
    some (0xA000, 0x25, false, 6, [0x12, 0x34, 0x21]) := by decide

/-- R373, R376: IRQ with I clear. -/
theorem test_irq_acknowledged : after (fun t => (t.pc, t.p, t.irqPending, [0x01FF, 0x01FE, 0x01FD].map t.flat.get))
    { flatMachine 0x1234 [(0x1234, 0xEA), (0xFFFE, 0x78), (0xFFFF, 0x56)] with p := 0xC0, irqPending := true } =
    some (0x5678, 0xE4, false, [0x12, 0x34, 0xE0]) := by decide

/-- R373: IRQ with I set, policy hold. -/
theorem test_irq_held : after (fun t => (t.pc, t.p, t.irqPending))
    { flatMachine 0x8000 [(0x8000, 0xEA)] with p := 0x04, irqPending := true } =
    some (0x8001, 0x04, true) := by decide

/-- R373: IRQ with I set, policy drop. -/
theorem test_irq_dropped : after (fun t => (t.pc, t.p, t.irqPending))
    { flatMachine 0x8000 [(0x8000, 0xEA)] with
      p := 0x04, irqPending := true, launch := { Config.defaultLaunch with irqMasked := .drop } } =
    some (0x8001, 0x04, false) := by decide

/-- R374: both latches set: NMI only. -/
theorem test_nmi_before_irq : after (fun t => (t.pc, t.p, t.nmiPending, t.irqPending))
    { flatMachine 0x8000 [(0x8000, 0xEA), (0xFFFB, 0xA0)] with nmiPending := true, irqPending := true } =
    some (0xA000, 0x24, false, true) := by decide

/-- R400, S2. -/
theorem test_reset : (fun t : State => (t.a, t.x, t.y, t.sp, t.pc, t.cyclesLeft))
    (resetCpu { flatMachine 0x9ABC [(0xFFFC, 0xCD), (0xFFFD, 0xAB)] with
      a := 0x12, x := 0x34, y := 0x56, sp := 0x78, cyclesLeft := 3 }) =
    (0x00, 0x00, 0x00, 0xFF, 0xABCD, 0) := by decide

/-- R400, S2: slot 15 empty. -/
theorem test_reset_unmapped :
    (resetCpu { State.reset with slots := .replicate 16 none, pc := 0x9ABC }).pc = 0x0000 := by decide

/-- R300, S5: a second registration over slots 12 to 15 fails. -/
theorem test_registration_overlap :
    ((registerDevice .banked 0x8000 8 (.replicate 16 none)).bind (registerDevice .flat 0xC000 4)) = none := by decide

/-- R300, D37, S5: the low 12 bits of the start address are ignored. -/
theorem test_registration_low_bits :
    (registerDevice .flat 0x0FFF 2 (.replicate 16 none)).map (fun t => (t.get 0, t.get 1, t.get 2)) =
    some (some .flat, some .flat, none) := by decide

/-- R304, V12: RAM mirrors. -/
theorem test_ram_mirrors :
    [0x0000, 0x0800, 0x1000, 0x1800].map (fun a => (busRead a (busWrite 0x0000 0x5A State.reset)).1) =
    [0x5A, 0x5A, 0x5A, 0x5A] := by decide

/-- R66, V12: an empty slot. -/
theorem test_empty_slot : (busRead 0x4000 (busWrite 0x4000 0x5A State.reset)).1 = 0x00 := by decide

/-- R305, R306, V12: a ROM write stores, and an aliased high bank repeats it. -/
theorem test_rom_write_alias :
    [0x8000, 0xC000].map (fun a => (busRead a (busWrite 0x8000 0x99 State.reset)).1) = [0x99, 0x99] := by decide

/-- R305, V12: an own high bank does not. -/
theorem test_rom_write_own :
    [0x8000, 0xC000].map (fun a => (busRead a (busWrite 0x8000 0x99 { State.reset with bankHi := .own [] })).1) =
    [0x99, 0x00] := by decide

/-- R330, R331, V12: 0x2000 and 0x3FF8 are register 0. -/
theorem test_ppu_register : (busWrite 0x3FF8 0x01 (busWrite 0x2000 0x80 State.reset)).ppu.reg.get 0 = 0x01 := by decide

/-- R340, S6: the last clock of a frame. -/
theorem test_ppu_frame_end : (fun r : Ppu × Bool => (r.1.cycle, r.1.scanline, r.1.active, r.2))
    (Ppu.clock { Ppu.initial with cycle := 261, scanline := 339 } 61440) = (0, -1, 1, true) := by decide

/-- R340, S6: the last clock of a line. -/
theorem test_ppu_line_end : (fun r : Ppu × Bool => (r.1.cycle, r.1.scanline, r.1.active, r.2))
    (Ppu.clock { Ppu.initial with cycle := 261, scanline := -1 } 61440) = (0, 0, 0, false) := by decide

/-- R337, V12: 0x2C05 under the four mirroring configurations. -/
theorem test_nametable_mirroring :
    [Mirroring.vertical, .horizontal, .single, .four].map (fun m => videoCell m 0x2C05) =
    [.nt 0x405, .nt 0x405, .nt 0x005, .nt 0xC05] := by decide

/-- R338, R339, V12: the palette alias rule and the mirrors of region 3. -/
theorem test_palette_alias :
    [0x3F10, 0x3F14, 0x3F11, 0x3F1F, 0x3F20, 0x3000].map (videoCell .vertical) =
    [.pal 0x00, .pal 0x04, .pal 0x11, .pal 0x1F, .pal 0x00, .pal 0x00] := by decide

/-- R347, V13: row 0 of the tile with planes 80 and C0. -/
theorem test_tile_row :
    [0, 1, 2].map (tilePixel { Ppu.initial with chr := [(0x010, 0x80), (0x018, 0xC0)] } false 1 0) = [3, 2, 0] := by
  decide

/-- R348, V13: entries 61 and an aliased entry. -/
theorem test_palette_color :
    (getPaletteColor 1 1 { State.reset with ppu := { Ppu.initial with pal := [(0x04, 0x16), (0x05, 0x61)] } },
      getPaletteColor 5 0 { State.reset with ppu := { Ppu.initial with pal := [(0x04, 0x16), (0x05, 0x61)] } }) =
    (0x21, 0x16) := by decide

/-- R118, S8. -/
theorem test_disassembly :
    (disassemble 0x8000 1 3 (flatMachine 0 [(0x8000, 0x0D), (0x8001, 0xCD), (0x8002, 0xAB)])).map (·.1) =
    some [⟨0x8000, "ORA $ABCD", 3⟩] := by decide

/-- R119, log 20: at its byte ceiling a listing reads nothing more. -/
theorem test_disassembly_ceiling :
    (disassemble 0x1FFF 5 1 { State.reset with ram := [(0x07FF, 0xEA)] }).map (fun r => (r.1, r.2.draws)) =
    some ([⟨0x1FFF, "NOP", 1⟩], 0) := by decide

/-- Log 18: the placed instruction is the one the next step runs. -/
theorem test_placed_instruction : after (fun t => (t.pc, t.x, t.cyclesLeft)) (State.reset.withFetchWord 16 0x42A2) =
    some (0x0002, 0x42, 1) := by decide

/-- R132, R143: an instruction that loads an Immediate operand reads it (once). -/
theorem test_immediate_read : after (fun t => (t.pc, t.draws))
    { State.reset with pc := 0x1FFF, ram := [(0x07FF, 0xA9)] } = some (0x2001, 1) := by decide

/-- R132, R281: an illegal NOP does not read its Immediate operand. -/
theorem test_immediate_not_read : after (fun t => (t.pc, t.draws))
    { State.reset with pc := 0x1FFF, ram := [(0x07FF, 0x80)] } = some (0x2001, 0) := by decide

/-- R132, R261: nor does a named illegal opcode under stub. -/
theorem test_immediate_not_read_stub : after (fun t => (t.pc, t.draws))
    { State.reset with pc := 0x1FFF, ram := [(0x07FF, 0x0B)] } = some (0x2001, 0) := by decide

/-! ### Witnesses: for every statement with hypotheses, states and operands that meet them -/

/-- No address of the flat machine is in the PPU window. -/
theorem flat_plain (pc : Word) (m : Memory) (a : Word) : (flatMachine pc m).plain a := by
  intro i
  simp [State.translate, State.deviceAt, flatMachine, Vector.get_eq_getElem]

theorem witness_EncodeOfDecode : decode [0x0D, 0xCD, 0xAB, 0xFF] = .ok (.oraAbs 0xABCD, [0xFF]) := by rfl

theorem witness_DecodingIsTotal : (Instr.ldaImm 0xFF).opcode = 0xA9 := by decide

/-- PC wraps inside the instruction. -/
theorem witness_StepRunsDecodedInstruction :
    let s := flatMachine 0xFFFF [(0x0000, 0x10), (0xFFFF, 0xA9)]
    s.fetchesNext ∧
      (fetchInstruction (settleMaskedIrq (ppuClocks 3 { s with frameDone := false }))).1 =
        encode (.ldaImm 0x10) := ⟨⟨rfl, rfl, rfl⟩, by decide⟩

/-- A machine whose RAM ends with an opcode, its operand byte being the first of the PPU window. -/
def atWindowEdge (op : Byte) : State := { State.reset with pc := 0x1FFF, ram := [(0x07FF, op)] }

/-- Up to the last byte before the PPU window, for bytes and for an instruction; and an Immediate operand inside it. -/
theorem witness_FetchReadsStoredBytes :
    (let s := { State.reset with pc := 0x1FFD }
     ∀ k < 3, s.plain (s.pc + BitVec.ofNat 16 k)) ∧
    (let s := { State.reset with pc := 0x1FFD, ram := [(0x07FD, 0x0D)] }
     instrLength (s.stored s.pc) = 3 ∧ ∀ k < 3, s.plain (s.pc + BitVec.ofNat 16 k)) ∧
    (atWindowEdge 0xA9).plain (atWindowEdge 0xA9).pc ∧
    isImmediate ((atWindowEdge 0xA9).stored (atWindowEdge 0xA9).pc) = true := by
  unfold State.plain
  decide

theorem witness_IdleClock : ({ State.reset with cyclesLeft := 1 } : State).cyclesLeft = 0 + 1 ∧
    ({ State.reset with cyclesLeft := 7 } : State).cyclesLeft = 6 + 1 := by decide

/-- With no interrupt pending, and with a masked one. -/
theorem witness_InstructionOccupiesItsCycles : State.reset.fetchesNext ∧
    ({ State.reset with irqPending := true, p := 0x04 } : State).fetchesNext := ⟨⟨rfl, rfl, rfl⟩, rfl, rfl, rfl⟩

theorem witness_ExtraCycleRule :
    let s := { flatMachine 0x80FF [] with x := 0x01, y := 0x01 }
    modeRequestsExtraCycle (.ldaAbx 0x12FF) s = true ∧ modeRequestsExtraCycle (.staAby 0x12FF) s = true ∧
    modeRequestsExtraCycle (.bccRel 0x01) s = true ∧
    modeRequestsExtraCycle (.cmpIzy 0x00) { s with flat := [(0x0000, 0xFF)] } = true := by decide

theorem witness_PointerModes : ∀ b, Operand.izy 0xFF ≠ .imm b := nofun

theorem witness_Loads :
    (Instr.ldaIzy 0xFF).operand = some (.izy 0xFF) ∧ (Instr.ldaIzy 0xFF).mnemonic = .lda ∧
    (Instr.ldxZpy 0xFF).operand = some (.zpy 0xFF) ∧ (Instr.ldxZpy 0xFF).mnemonic = .ldx ∧
    (Instr.ldyAbx 0xFFFF).operand = some (.abx 0xFFFF) ∧ (Instr.ldyAbx 0xFFFF).mnemonic = .ldy := by decide

theorem witness_Stores :
    (Instr.staIzx 0xFF).operand = some (.izx 0xFF) ∧ (Instr.staIzx 0xFF).mnemonic = .sta ∧
    (Instr.stxZpy 0xFF).operand = some (.zpy 0xFF) ∧ (Instr.stxZpy 0xFF).mnemonic = .stx ∧
    (Instr.styAbs 0xFFFF).operand = some (.abs 0xFFFF) ∧ (Instr.styAbs 0xFFFF).mnemonic = .sty := by decide

theorem witness_AddWithCarry :
    (Instr.adcAby 0xFFFF).operand = some (.aby 0xFFFF) ∧ (Instr.adcAby 0xFFFF).mnemonic = .adc := by decide

theorem witness_SubtractWithCarry :
    (Instr.sbcImmEB 0xFF).operand = some (.imm 0xFF) ∧ (Instr.sbcImmEB 0xFF).mnemonic = .sbc := by decide

theorem witness_DecimalFlagHasNoEffect :
    (Instr.adcImm 0x09).mnemonic ∉ [.php, .brk, .plp, .rti, .cld, .sed] := by decide

theorem witness_BitwiseOperations :
    (Instr.andImm 0xFF).operand = some (.imm 0xFF) ∧ (Instr.andImm 0xFF).mnemonic = .and ∧
    (Instr.oraAbs 0xFFFF).operand = some (.abs 0xFFFF) ∧ (Instr.oraAbs 0xFFFF).mnemonic = .ora ∧
    (Instr.eorZp 0xFF).operand = some (.zp 0xFF) ∧ (Instr.eorZp 0xFF).mnemonic = .eor := by decide

theorem witness_BitTest :
    (Instr.bitAbs 0xFFFF).operand = some (.abs 0xFFFF) ∧ (Instr.bitAbs 0xFFFF).mnemonic = .bit := by decide

theorem witness_Comparisons :
    (Instr.cmpImm 0xFF).operand = some (.imm 0xFF) ∧ (Instr.cmpImm 0xFF).mnemonic = .cmp ∧
    (Instr.cpxZp 0xFF).operand = some (.zp 0xFF) ∧ (Instr.cpxZp 0xFF).mnemonic = .cpx ∧
    (Instr.cpyAbs 0xFFFF).operand = some (.abs 0xFFFF) ∧ (Instr.cpyAbs 0xFFFF).mnemonic = .cpy := by decide

theorem witness_MemoryIncrements :
    (Instr.incAbx 0xFFFF).operand = some (.abx 0xFFFF) ∧ (Instr.incAbx 0xFFFF).mnemonic = .inc ∧
    (Instr.decZpx 0xFF).operand = some (.zpx 0xFF) ∧ (Instr.decZpx 0xFF).mnemonic = .dec := by decide

theorem witness_ShiftsAndRotates :
    [Instr.aslAcc, .lsrAcc, .rolAcc, .rorAcc].map Instr.mnemonic = [.asl, .lsr, .rol, .ror] ∧
    [Instr.aslAcc, .lsrAcc, .rolAcc, .rorAcc].map Instr.operand = [none, none, none, none] ∧
    [Instr.aslZp 0xFF, .lsrAbs 0xFFFF, .rolZpx 0xFF, .rorAbx 0xFFFF].map Instr.mnemonic = [.asl, .lsr, .rol, .ror] ∧
    [Instr.aslZp 0xFF, .lsrAbs 0xFFFF, .rolZpx 0xFF, .rorAbx 0xFFFF].map Instr.operand =
      [some (.zp 0xFF), some (.abs 0xFFFF), some (.zpx 0xFF), some (.abx 0xFFFF)] := by decide

theorem witness_Jump :
    (Instr.jmpInd 0x02FF).operand = some (.ind 0x02FF) ∧ (Instr.jmpInd 0x02FF).mnemonic = .jmp ∧
    (Instr.jmpAbs 0xFFFF).operand = some (.abs 0xFFFF) ∧ (Instr.jmpAbs 0xFFFF).mnemonic = .jmp := by decide

/-- The stack of the reset machine is memory, also where its two bytes wrap inside the page. -/
theorem witness_CallThenReturn :
    let s := { State.reset with sp := 0x00 }
    s.isMemory (stackAddress s.sp) ∧ ∃ t, exec (.jsrAbs 0x1234) s = .next t := by
  refine ⟨⟨?_, by decide⟩, _, rfl⟩
  unfold State.plain
  decide

theorem witness_StackDiscipline : State.reset.isMemory (stackAddress State.reset.sp) := by
  refine ⟨?_, by decide⟩
  unfold State.plain
  decide

theorem witness_NoOperations :
    (Instr.nopAbx1C 0xFFFF).mnemonic = .nop ∧ Instr.nop.mnemonic = .nop ∧ Instr.kilF2.mnemonic = .kil := by decide

theorem witness_SoftwareBreak : State.reset.plain 0xFFFE ∧ State.reset.plain 0xFFFF := by
  unfold State.plain
  decide

theorem witness_IllegalUnderStub : State.reset.launch.illegal = .stub ∧
    [Instr.sloZp 0, .rlaZp 0, .sreZp 0, .rraZp 0, .saxZp 0, .laxImm 0, .dcpZp 0, .iscZp 0, .ancImm2B 0].map
      Instr.mnemonic = [.slo, .rla, .sre, .rra, .sax, .lax, .dcp, .isc, .anc] ∧
    [Instr.alrImm 0, .arrImm 0, .xaaImm 0, .axsImm 0, .ahxIzy 0, .shyAbx 0, .shxAby 0, .tasAby 0, .lasAby 0].map
      Instr.mnemonic = [.alr, .arr, .xaa, .axs, .ahx, .shy, .shx, .tas, .las] := by decide

theorem witness_IllegalCombinations :
    ({ State.reset with launch := referenceLaunch } : State).launch.illegal = .reference ∧
    [Instr.sloZp 0xFF, .rlaZpx 0xFF, .sreAbs 0xFFFF, .rraAbx 0xFFFF, .dcpIzx 0xFF, .iscIzy 0xFF].map Instr.mnemonic =
      [.slo, .rla, .sre, .rra, .dcp, .isc] ∧
    [Instr.sloZp 0xFF, .rlaZpx 0xFF, .sreAbs 0xFFFF, .rraAbx 0xFFFF, .dcpIzx 0xFF, .iscIzy 0xFF].map Instr.operand =
      [some (.zp 0xFF), some (.zpx 0xFF), some (.abs 0xFFFF), some (.abx 0xFFFF), some (.izx 0xFF),
       some (.izy 0xFF)] := by decide

theorem witness_IllegalLoadsAndStores :
    ({ State.reset with launch := referenceLaunch } : State).launch.illegal = .reference ∧
    [Instr.saxZpy 0xFF, .laxIzy 0xFF, .lasAby 0xFFFF].map Instr.mnemonic = [.sax, .lax, .las] ∧
    [Instr.saxZpy 0xFF, .laxIzy 0xFF, .lasAby 0xFFFF].map Instr.operand =
      [some (.zpy 0xFF), some (.izy 0xFF), some (.aby 0xFFFF)] ∧
    formatOf (.laxIzy 0xFF) ≠ .imm := by decide

theorem witness_IllegalImmediates :
    ({ State.reset with launch := referenceLaunch } : State).launch.illegal = .reference ∧
    [Instr.ancImm0B 0xFF, .alrImm 0xFF, .arrImm 0xFF, .axsImm 0xFF].map Instr.mnemonic = [.anc, .alr, .arr, .axs] ∧
    [Instr.ancImm0B 0xFF, .alrImm 0xFF, .arrImm 0xFF, .axsImm 0xFF].map Instr.operand =
      [some (.imm 0xFF), some (.imm 0xFF), some (.imm 0xFF), some (.imm 0xFF)] := by decide

theorem witness_IllegalUnstable :
    ({ State.reset with launch := referenceLaunch } : State).launch.illegal = .reference ∧
    [Instr.xaaImm 0xFF, .laxImm 0xFF, .ahxAby 0xFFFF, .shyAbx 0xFFFF].map Instr.mnemonic = [.xaa, .lax, .ahx, .shy] ∧
    [Instr.xaaImm 0xFF, .laxImm 0xFF, .ahxAby 0xFFFF, .shyAbx 0xFFFF].map Instr.operand =
      [some (.imm 0xFF), some (.imm 0xFF), some (.aby 0xFFFF), some (.abx 0xFFFF)] ∧
    [Instr.shxAby 0xFFFF, .tasAby 0xFFFF].map Instr.mnemonic = [.shx, .tas] ∧
    [Instr.shxAby 0xFFFF, .tasAby 0xFFFF].map Instr.operand = [some (.aby 0xFFFF), some (.aby 0xFFFF)] ∧
    formatOf (.laxImm 0xFF) = .imm := by decide

/-- An NMI with I set, and an IRQ with I clear; the vectors are in memory. -/
theorem witness_InterruptAcknowledge :
    (({ State.reset with nmiPending := true, p := 0x04 } : State).cyclesLeft = 0 ∧
      ({ State.reset with nmiPending := true, p := 0x04 } : State).nmiPending = true) ∧
    (let s := { State.reset with irqPending := true }
     s.cyclesLeft = 0 ∧ s.nmiPending = false ∧ s.irqPending = true ∧ s.flag .i = false) ∧
    State.reset.plain 0xFFFA ∧ State.reset.plain (0xFFFA + 1) ∧ State.reset.plain 0xFFFE ∧
    State.reset.plain (0xFFFE + 1) := by
  unfold State.plain
  decide

/-- The two policies with a masked IRQ, no IRQ, an accepted IRQ, an NMI. -/
theorem witness_MaskedInterruptRequest :
    (let s := { State.reset with irqPending := true, p := 0x04 }
     s.cyclesLeft = 0 ∧ s.nmiPending = false ∧ s.irqPending = true ∧ s.flag .i = true ∧ s.launch.irqMasked = .hold) ∧
    ({ Config.defaultLaunch with irqMasked := .drop } : Launch).irqMasked = .drop ∧
    State.reset.irqPending = false ∧
    (let s := { State.reset with irqPending := true }
     s.irqPending = true ∧ s.flag .i = false) ∧
    ({ State.reset with nmiPending := true } : State).nmiPending = true := by decide

theorem witness_InterruptThenReturn :
    (let s := { State.reset with sp := 0x01 }
     s.isMemory (stackAddress s.sp)) ∧ InterruptKind.nmi ≠ .brk ∧ InterruptKind.irq ≠ .brk := by
  refine ⟨⟨?_, by decide⟩, by decide, by decide⟩
  unfold State.plain
  decide

/-- A latch that is set already, the two ends of a countdown, a boundary without an NMI. -/
theorem witness_HostEntryPoints :
    ({ State.reset with nmiPending := true } : State).nmiPending = true ∧
    ({ State.reset with irqPending := true } : State).irqPending = true ∧
    ({ State.reset with cyclesLeft := 1 } : State).cyclesLeft = 0 + 1 ∧
    ({ State.reset with cyclesLeft := 7 } : State).cyclesLeft = 6 + 1 ∧
    State.reset.cyclesLeft = 0 ∧ State.reset.nmiPending = false := by decide

/-- The reset state, and a state at every bound of the invariant. -/
theorem witness_StepKeepsSound : State.reset.wf ∧ (∃ t, step State.reset = .next t) ∧
    ({ State.reset with cyclesLeft := 7, ppu := { Ppu.initial with cycle := 261, scanline := 339 } } : State).wf := by
  refine ⟨⟨rfl, rfl, rfl, rfl, trivial, ⟨rfl, rfl, rfl, rfl, ?_, ?_, ?_, ?_, ?_⟩, ?_⟩, ⟨_, rfl⟩,
    rfl, rfl, rfl, rfl, trivial, ⟨rfl, rfl, rfl, rfl, ?_, ?_, ?_, ?_, ?_⟩, ?_⟩ <;> decide

/-- The first and the last address of the empty slots. -/
theorem witness_UnmappedSlots :
    State.reset.slots.get (slotOf 0x4000).toFin = none ∧ State.reset.slots.get (slotOf 0x7FFF).toFin = none ∧
    ({ State.reset with pc := 0x4000 } : State).pc = 0x4000 := by decide

/-- The flat device's first and last address, two of its addresses and an address outside it; the banked device's last
RAM address and the first one past it. -/
theorem witness_MemoryDeviceCells :
    (flatMachine 0 []).deviceAt 0x0000 = some .flat ∧ (flatMachine 0 []).deviceAt 0xFFFF = some .flat ∧
    (0xFFFF : Word) ≠ 0x0000 ∧ State.reset.deviceAt 0x2000 ≠ some .flat ∧
    (bankedMachine .mirrored).deviceAt 0x1FFF = some .banked ∧ (0x1FFF : Word).toNat < 0x2000 ∧
    (bankedMachine .mirrored).deviceAt 0x2000 = some .banked ∧ 0x2000 ≤ (0x2000 : Word).toNat := by decide

/-- The low bank's first and last address, an aliased and an own high bank's. -/
theorem witness_RomBanks :
    [0x2000, 0x3FFF, 0x4000, 0xBFFF, 0xC000, 0xFFFF].map (bankedMachine .mirrored).deviceAt =
      List.replicate 6 (some .banked) ∧
    (0xBFFF : Word).getLsbD 14 = false ∧ (0xC000 : Word).getLsbD 14 = true ∧
    (bankedMachine .mirrored).bankHi = .mirrored ∧ (bankedMachine (.own [])).bankHi = .own [] ∧
    (0x8000 : Word).toNat % 0x4000 = (0xC000 : Word).toNat % 0x4000 := by decide

/-- The bounds of the count and of the range, and an occupied slot. -/
theorem witness_Registration :
    (registerDevice .flat 0x0000 16 (.replicate 16 none)).isSome = true ∧
    (registerDevice .flat 0xF000 1 (.replicate 16 none)).isSome = true ∧
    registerDevice .flat 0x0000 0 (.replicate 16 none) = none ∧
    registerDevice .flat 0x0000 17 (.replicate 16 none) = none ∧
    registerDevice .flat 0xF000 2 (.replicate 16 none) = none ∧
    registerDevice .flat 0x1000 1 State.reset.slots = none := by decide

/-- The window's first and last address, and two addresses of one register. -/
theorem witness_PpuRegisterWindow :
    State.reset.deviceAt 0x2000 = some .ppu ∧ State.reset.deviceAt 0x3FFF = some .ppu ∧
    (0x2007 : Word).toNat % 8 = (0x3FFF : Word).toNat % 8 := by decide

theorem witness_VideoStateUntouched :
    (∃ t, step State.reset = .next t) ∧ ∃ u, cpuClock State.reset = .next u := ⟨⟨_, rfl⟩, _, rfl⟩

theorem witness_FrameTiming : Ppu.initial.cycle = 0 ∧ Ppu.initial.scanline = -1 := by decide

theorem witness_PpuClockFrame : State.reset.launch.wellFormed = true := by decide

/-- The last address of the space and the first one past it; a pair for each region's clause. -/
theorem witness_VideoMemory :
    0x4000 ≤ (0x4000 : Word).toNat ∧ (0x3FFF : Word).toNat < 0x4000 ∧
    ((0x1FFF : Word).toNat < 0x2000 ∧ (0x2000 : Word).toNat / 4096 = 2 ∧ (0x2FFF : Word).toNat / 4096 = 2) ∧
    ((0x3000 : Word).toNat / 4096 = 3 ∧ (0x3F10 : Word).toNat % 32 ∈ [0x10, 0x14, 0x18, 0x1C]) := by decide

theorem witness_TilesAndColours : 127 < 128 ∧ 0 < 128 := by decide

/-- A blank image with a 16-byte header: `banks` program banks and `chr` pattern banks. -/
def blankImage (banks chr : Byte) (n : Nat) : List Byte :=
  [0x4E, 0x45, 0x53, 0x1A, banks, chr] ++ List.replicate n 0x00

theorem blankImage_header (banks chr : Byte) (n : Nat) :
    (blankImage banks chr n).length = n + 6 ∧ (blankImage banks chr n).getD 4 0 = banks ∧
    (blankImage banks chr n).getD 5 0 = chr ∧ programOffset (blankImage banks chr n) = 16 := by
  refine ⟨by simp [blankImage], rfl, rfl, ?_⟩
  have : (blankImage banks chr n).getD 6 0 = 0 := by
    simp [blankImage, List.getD_eq_getElem?_getD]
  rw [programOffset, this]
  rfl

/-- One bank with no pattern memory, and two banks with pattern memory: images of the least length that load. -/
theorem loads_smallest_images :
    (∃ t, loadCartridge (blankImage 1 0 16394) State.reset = some t) ∧
    (∃ t, loadCartridge (blankImage 2 1 40970) State.reset = some t) := by
  constructor
  · obtain ⟨hl, h4, h5, ho⟩ := blankImage_header 1 0 16394
    generalize blankImage 1 0 16394 = image at *
    obtain ⟨lo, h0⟩ := imageSlice_some image 16 Config.romBankSize (by rw [hl]; decide)
    refine ⟨{ State.reset with bankLo := lo, bankHi := .mirrored }, ?_⟩
    rw [loadCartridge, ho, h4, h5, h0]
    rfl
  · obtain ⟨hl, h4, h5, ho⟩ := blankImage_header 2 1 40970
    generalize blankImage 2 1 40970 = image at *
    obtain ⟨lo, h0⟩ := imageSlice_some image 16 Config.romBankSize (by rw [hl]; decide)
    obtain ⟨hi, h1⟩ := imageSlice_some image (16 + Config.romBankSize) Config.romBankSize (by rw [hl]; decide)
    obtain ⟨chr, h2⟩ := imageSlice_some image (16 + Config.romBankSize * 2) Config.chrSize (by rw [hl]; decide)
    refine ⟨{ State.reset with bankLo := lo, bankHi := .own hi, ppu := { State.reset.ppu with chr := chr } }, ?_⟩
    rw [loadCartridge, ho, h4, h5, h0]
    simp [loadHighBank, h1, h2]

/-- The two loads; the premises of a load that succeeds and of one that fails; a construction; both banks' requests. -/
theorem witness_LoadContract :
    ((∃ t, loadCartridge (blankImage 1 0 16394) State.reset = some t) ∧
      ∃ t, loadCartridge (blankImage 2 1 40970) State.reset = some t) ∧
    ((blankImage 1 0 16394).length = 16 + 16384 ∧ (blankImage 1 0 16394).getD 4 0 = 1 ∧
      (blankImage 2 1 40970).length = 16 + 16384 * 2 + 8192 ∧ (blankImage 2 1 40970).getD 4 0 = 2) ∧
    (∃ s, construct Config.defaultLaunch Config.defaultMap = some s) ∧
    State.reset.bankHi = .mirrored ∧ ({ State.reset with bankHi := .own [] } : State).bankHi = .own [] ∧
    ({ State.reset with bankHi := .own [] } : State).bankHi ≠ .mirrored :=
  ⟨loads_smallest_images, ⟨(blankImage_header 1 0 16394).1, (blankImage_header 1 0 16394).2.1,
    (blankImage_header 2 1 40970).1, (blankImage_header 2 1 40970).2.1⟩, ⟨_, rfl⟩, by decide, by decide, by decide⟩

/-- R311: a one-bank image does not load where the high bank is independent already. -/
theorem test_no_way_back_to_alias :
    loadCartridge (blankImage 1 0 16394) { State.reset with bankHi := .own [] } = none := by
  obtain ⟨hl, h4, -, ho⟩ := blankImage_header 1 0 16394
  generalize blankImage 1 0 16394 = image at *
  obtain ⟨lo, h0⟩ := imageSlice_some image 16 Config.romBankSize (by rw [hl]; decide)
  rw [loadCartridge, ho, h4, h0]
  rfl

/-- A ceiling of each kind and of none; lines outside the PPU window; the example's bytes. -/
theorem witness_Disassembly :
    let s := flatMachine 0 [(0x8000, 0x0D), (0x8001, 0xCD), (0x8002, 0xAB)]
    disassemble 0x8000 0 0 s = none ∧ 2 ≠ 0 ∧
    (∃ t, disassemble 0x8000 0 4 s = some ([⟨0x8000, "ORA $ABCD", 3⟩, ⟨0x8003, "BRK", 1⟩], t)) ∧
    (∃ t, disassemble 0x8000 2 3 s = some ([⟨0x8000, "ORA $ABCD", 3⟩], t)) ∧
    s.plain 0x8000 ∧ (∀ k < 3, s.plain (0x8000 + BitVec.ofNat 16 k)) ∧ s.plain (0x8000 + BitVec.ofNat 16 3) ∧
    s.stored 0x8000 = 0x0D ∧ s.stored (0x8000 + 1) = 0xCD ∧ s.stored (0x8000 + 2) = 0xAB :=
  ⟨rfl, by decide, ⟨_, rfl⟩, ⟨_, rfl⟩, flat_plain _ _ _, fun _ _ => flat_plain _ _ _, flat_plain _ _ _, by decide,
    by decide, by decide⟩

end Sys2Proof.Tests
end

/-! PROOFS. The video state: what a step leaves of it (O53), and what a PPU clock reads and writes (O55). -/

namespace Sys2Proof.Machine

/-! ### What a CPU clock leaves of the video state -/

/-- R334: all of the PPU's memories but the register file survive where the PPU is kept. -/
theorem keepsVideo_stores {s t : State} (h : KeepsVideo s t) :
    t.ppu.chr = s.ppu.chr ∧ t.ppu.nt = s.ppu.nt ∧ t.ppu.pal = s.ppu.pal ∧ t.ppu.oam = s.ppu.oam := by
  unfold KeepsVideo at h
  rw [h]
  exact ⟨rfl, rfl, rfl, rfl⟩

/-- R335: a video read looks at pattern memory, the nametables, the palette and the mirroring only. -/
theorem videoRead_congr {s t : State} (hv : KeepsVideo s t) (hl : t.launch = s.launch) (v : Word) :
    videoRead v t = videoRead v s := by
  unfold KeepsVideo at hv
  have hcell (c : VideoCell) : t.ppu.readVideoCell c = s.ppu.readVideoCell c := by
    rw [hv]
    cases c <;> rfl
  simp only [videoRead, hcell, hl]

/-- Settles O53: the PPU clocks of the tick touch none of what is named (`ppuClocks_eq`), and the CPU clock after them
keeps the machine around the CPU (`cpuClock_keepsMachine`). -/
theorem videoStateUntouched : Obligations.VideoStateUntouched := by
  unfold Obligations.VideoStateUntouched
  intro s t ht
  have hread : ∀ v u, cpuClock s = .next u → videoRead v u = videoRead v s := by
    intro v u hu
    obtain ⟨-, -, hvideo, hlaunch, -⟩ := cpuClock_keepsMachine hu
    exact videoRead_congr hvideo hlaunch v
  have hkeeps : ∀ u, cpuClock s = .next u → KeepsVideo s u := by
    intro u hu
    obtain ⟨-, -, hvideo, -, -⟩ := cpuClock_keepsMachine hu
    exact hvideo
  obtain ⟨p, d, hp, -, pchr, pnt, ppal, poam⟩ := ppuClocks_eq Config.ppuClocksPerCpuClock { s with frameDone := false }
  have hcpu : cpuClock (ppuClocks Config.ppuClocksPerCpuClock { s with frameDone := false }) = .next t := ht
  rw [hp] at hcpu
  obtain ⟨hslots, hbank, hvideo, hlaunch, -⟩ := cpuClock_keepsMachine hcpu
  obtain ⟨hchr, hnt, hpal, hoam⟩ := keepsVideo_stores hvideo
  exact ⟨hchr.trans pchr, hnt.trans pnt, hpal.trans ppal, hoam.trans poam, hslots, hbank, hlaunch, hread, hkeeps⟩

/-! ### What a PPU clock reads and writes -/

/-- R341: a PPU clock keeps the stores that a Bus access can see. -/
theorem clock_stores (u : Ppu) (size : Nat) :
    (u.clock size).1.reg = u.reg ∧ (u.clock size).1.chr = u.chr ∧ (u.clock size).1.nt = u.nt ∧
    (u.clock size).1.pal = u.pal ∧ (u.clock size).1.oam = u.oam := by
  obtain ⟨c, l, a, h⟩ := advance_eq (u.paint size)
  rw [Ppu.clock, h]
  exact ⟨rfl, rfl, rfl, rfl, rfl⟩

/-- R342: a PPU clock writes one pixel of the buffer that was active before it, and leaves the other buffer. -/
theorem clock_frame_get (u : Ppu) (size : Nat) (j : Fin 2) :
    (u.clock size).1.frame.get j =
      if u.active = j then (u.frame.get u.active).set (u.paintedPixel size) (Config.pixelValue u.pixelDraws)
      else u.frame.get j := by
  obtain ⟨c, l, a, h⟩ := advance_eq (u.paint size)
  rw [Ppu.clock, h]
  exact frame_get_set u.frame u.active j _

/-- R342, R343: the buffer that is not active stays as it is. -/
theorem clock_displayed (u : Ppu) (size : Nat) :
    (u.clock size).1.frame.get (1 - u.active) = u.frame.get (1 - u.active) := by
  have hne : ∀ a : Fin 2, a ≠ 1 - a := by decide
  rw [clock_frame_get, if_neg (hne u.active)]

/-- R342: the pixels of the active buffer after a clock. -/
theorem clock_painted (u : Ppu) (size j : Nat) :
    ((u.clock size).1.frame.get u.active).get j =
      if j = u.paintedPixel size then Config.pixelValue u.pixelDraws else (u.frame.get u.active).get j := by
  rw [clock_frame_get, if_pos rfl, Memory.get_set]

/-- R342: in a frame of at least one pixel, the painted pixel is one of them. -/
theorem paintedPixel_lt (u : Ppu) (l : Launch) (h : l.wellFormed = true) :
    u.paintedPixel (Launch.frameSize l) < Launch.frameSize l :=
  Nat.mod_lt _ (of_decide_eq_true h)

/-- R340: a PPU clock of the machine is a clock of its PPU. -/
theorem ppuClock_eq (s : State) :
    ppuClock s = ({ s with ppu := (s.ppu.clock (Launch.frameSize s.launch)).1 },
      (s.ppu.clock (Launch.frameSize s.launch)).2) := rfl

/-- R341: with other contents in the stores that a Bus access can see, a PPU clock does and returns the same. -/
theorem ppuClock_withStores (s : State) (r : Ppu) :
    ppuClock { s with ppu := s.ppu.withStores r } =
      ({ s with ppu := (ppuClock s).1.ppu.withStores r }, (ppuClock s).2) := by
  simp only [ppuClock_eq, clock_withStores]

/-- Settles O55: the clock's two buffers are `clock_displayed` and `clock_painted`, the stores it leaves `clock_stores`,
and that it reads none of them `ppuClock_withStores`. -/
theorem ppuClockFrame : Obligations.PpuClockFrame := by
  unfold Obligations.PpuClockFrame
  intro s
  obtain ⟨hreg, hchr, hnt, hpal, hoam⟩ := clock_stores s.ppu (Launch.frameSize s.launch)
  exact ⟨rfl, hreg, hchr, hnt, hpal, hoam, clock_displayed s.ppu _, clock_painted s.ppu _, paintedPixel_lt s.ppu s.launch,
    ppuClock_withStores s⟩

end Sys2Proof.Machine

/-! PROOFS. The invariant: what every step keeps of the stores, the counters and the countdown (O47), and that it holds
at reset (O46). -/

namespace Sys2Proof.Machine

/-! ### The cycles an instruction charges (R404) -/

/-- R404: the read instructions that request the extra cycle are those whose mode can: BIT, CPX and CPY have no indexed
form. -/
theorem readEffect_requests (i : Instr) (s : State) (f : Byte → State → State) (hf : readEffect i.mnemonic = some f)
    (hm : modeRequestsExtraCycle i s = true) : requestsExtraCycle i s = true := by
  cases i <;> cases hf
  case bitZp | bitAbs | cpxImm | cpxZp | cpxAbs | cpyImm | cpyZp | cpyAbs => cases hm
  all_goals rfl

/-- R153, R204: the instructions that store or jump make no request. -/
theorem storeValue_requests (i : Instr) (s : State) (f : State → Byte) (hf : storeValue i.mnemonic = some f) :
    requestsExtraCycle i s = false := by
  unfold requestsExtraCycle
  generalize i.mnemonic = m at *
  cases m <;> cases hf <;> rfl

theorem modifyEffect_requests (i : Instr) (s : State) (v : Byte → State → Byte) (f : Byte → State → State)
    (hf : modifyEffect i.mnemonic = some (v, f)) : requestsExtraCycle i s = false := by
  unfold requestsExtraCycle
  generalize i.mnemonic = m at *
  cases m <;> cases hf <;> rfl

/-- R221: a branch requests the extra cycle exactly when its flag has the value it is taken on. -/
theorem branchTest_requests (i : Instr) (s : State) (f : Flag) (b : Bool) (hf : branchTest i.mnemonic = some (f, b)) :
    requestsExtraCycle i s = (s.flag f == b) := by
  unfold requestsExtraCycle
  generalize i.mnemonic = m at *
  cases m <;> cases hf <;> simp

/-- R261: an illegal instruction's request is the same under both semantics. -/
theorem illegalRequest_requests (i : Instr) (s : State) (xi : Bool) (hx : illegalRequest i.mnemonic = some xi) :
    requestsExtraCycle i s = xi := by
  unfold requestsExtraCycle
  generalize i.mnemonic = m at *
  cases m <;> cases hx <;> rfl

theorem illegalRequest_combination (n : Mnemonic) (xi : Bool) (v : Byte → State → Byte) (f : Byte → State → State)
    (hx : illegalRequest n = some xi) (hf : combinationEffect n = some (v, f)) : xi = false := by
  cases n <;> cases hf <;> cases hx <;> rfl

theorem illegalRequest_referenceRead (n : Mnemonic) (xi yi : Bool) (f : Byte → State → State)
    (hx : illegalRequest n = some xi) (hf : referenceRead n = some (yi, f)) : xi = yi := by
  cases n <;> cases hf <;> cases hx <;> rfl

theorem illegalRequest_unstableStore (n : Mnemonic) (xi : Bool) (f : State → State)
    (hx : illegalRequest n = some xi) (hf : unstableStoreEffect n = some f) : xi = false := by
  cases n <;> cases hf <;> cases hx <;> rfl

/-- What an instruction charges, read off the shape of its execution. -/
theorem charges_of_shape {i : Instr} {s t u : State} {xm xi : Bool} (h : exec i s = .next t)
    (hu : exec i s = .next (charge i.baseCycles xm xi u))
    (hx : (xm && xi) = (modeRequestsExtraCycle i s && requestsExtraCycle i s)) :
    Charges i.baseCycles (modeRequestsExtraCycle i s) (requestsExtraCycle i s) t := by
  cases hu.symm.trans h
  rw [Charges, ← hx, charge_cyclesLeft]

/-- R404: every instruction charges its base cycles, and one more when its mode and the instruction itself both request
it. -/
theorem exec_charges (i : Instr) (s t : State) (h : exec i s = .next t) :
    Charges i.baseCycles (modeRequestsExtraCycle i s) (requestsExtraCycle i s) t := by
  rcases instr_shape i with ⟨f, hf, ho⟩ | ⟨o, ho, hs⟩
  · exact charges_of_shape h (exec_implied i s f hf ho) (by rw [modeRequests_none i s ho]; rfl)
  have hm := modeRequests_some i o s ho
  rcases hs with ⟨f, hf⟩ | ⟨f, hf⟩ | ⟨v, f, hf⟩ | hn | hn | hn | ⟨f, b, hf⟩ | ⟨xi, hx, hs⟩
  · refine charges_of_shape h (exec_read i s f o hf ho) ?_
    rw [load_xm, ← hm]
    cases hmode : modeRequestsExtraCycle i s with
    | false => rfl
    | true => rw [readEffect_requests i s f hf hmode]
  · exact charges_of_shape h (exec_store i s f o hf ho) (by rw [hm, storeValue_requests i s f hf])
  · exact charges_of_shape h (exec_modify i s v f o hf ho) (by rw [hm, modifyEffect_requests i s v f hf])
  · exact charges_of_shape h (exec_skip i s o hn ho) (by rw [hm, requestsExtraCycle, hn])
  · exact charges_of_shape h (exec_jump i s o hn ho) (by rw [hm, requestsExtraCycle, hn])
  · exact charges_of_shape h (exec_call i s o hn ho) (by rw [hm, requestsExtraCycle, hn])
  · obtain ⟨offset, ho', he⟩ := exec_branch i s f b hf
    exact charges_of_shape h he (by rw [modeRequests_some i _ s ho', branchTest_requests i s f b hf])
  have hreq := illegalRequest_requests i s xi hx
  cases hl : s.launch.illegal with
  | stub => exact charges_of_shape h (exec_stub i s xi o hx ho hl) (by rw [hm, hreq])
  | reference =>
    rcases hs with ⟨v, f, hf⟩ | hn | ⟨yi, f, hf⟩ | hn | ⟨f, hf⟩
    · exact charges_of_shape h (exec_combination i s v f o hf ho hl)
        (by rw [hm, hreq, illegalRequest_combination _ xi v f hx hf])
    · exact charges_of_shape h (exec_sax i s o hn ho hl) (by rw [hm, requestsExtraCycle, hn])
    · exact charges_of_shape h (exec_referenceRead i s yi f o hf ho hl)
        (by rw [load_xm, hm, hreq, illegalRequest_referenceRead _ xi yi f hx hf])
    · by_cases hi : ∃ b, o = .imm b
      · obtain ⟨b, rfl⟩ := hi
        have hlax : i = .laxImm b := by cases i <;> cases hn <;> cases ho; rfl
        subst hlax
        exact charges_of_shape h (exec_laxImm b s hl) rfl
      · exact charges_of_shape h (exec_lax i s o hn ho (fun b hb => hi ⟨b, hb⟩) hl)
          (by rw [load_xm, hm, requestsExtraCycle, hn])
    · exact charges_of_shape h (exec_unstableStore i s f o hf ho hl)
        (by rw [hm, hreq, illegalRequest_unstableStore _ xi f hx hf])

/-- R104: the instructions of eight base cycles never request one more. -/
theorem eightCycles_requests (i : Instr) (s : State) (h : i.baseCycles = 8) : requestsExtraCycle i s = false := by
  cases i <;> cases h <;> rfl

/-- R104, R404: no instruction charges more than 8 cycles. -/
theorem exec_cyclesLeft_le (i : Instr) (s t : State) (h : exec i s = .next t) : t.cyclesLeft ≤ 8 := by
  have hc : t.cyclesLeft = _ := exec_charges i s t h
  have hb := (baseCycles_range i).2
  by_cases h8 : i.baseCycles = 8
  · rw [hc, eightCycles_requests i s h8, h8, Bool.and_false]
    exact Nat.le_refl 8
  · have hx := Bool.toNat_le (modeRequestsExtraCycle i s && requestsExtraCycle i s)
    omega

/-! ### What a clock keeps of the invariant -/

/-- R402: from a countdown of at most 7, a clock leaves at most 7. -/
theorem cpuClock_cyclesLeft_le {s t : State} (hs : s.cyclesLeft ≤ 7) (h : cpuClock s = .next t) : t.cyclesLeft ≤ 7 := by
  rcases cpuClock_cases s with ⟨-, hk⟩ | ⟨-, -, hk⟩ | ⟨-, -, -, hk⟩ | ⟨-, i, u, v, -, -, hv, -, hk⟩ <;>
    (rw [hk] at h; cases h)
  · exact Nat.le_trans (Nat.sub_le _ _) hs
  · exact (by decide : Config.intAckCycles - 1 ≤ 7)
  · exact (by decide : Config.intAckCycles - 1 ≤ 7)
  · exact Nat.sub_le_sub_right (exec_cyclesLeft_le i u v hv) 1

/-- The soundness of the PPU does not depend on its register file. -/
theorem ppu_wf_of_keepsVideo {s t : State} (l : Launch) (hv : KeepsVideo s t) (h : s.ppu.wf l) : t.ppu.wf l := by
  rw [hv]
  exact h

/-- R402: a CPU clock keeps the machine sound. -/
theorem cpuClock_wf {s t : State} (hs : s.wf) (h : cpuClock s = .next t) : t.wf := by
  obtain ⟨hlaunch, hflat, hram, hlo, hhi, hppu, hcycles⟩ := hs
  obtain ⟨-, -, hvideo, hl, -⟩ := cpuClock_keepsMachine h
  obtain ⟨kflat, kram, klo, khi⟩ := cpuClock_storesWf h ⟨hflat, hram, hlo, hhi⟩
  refine ⟨?_, kflat, kram, klo, khi, ?_, cpuClock_cyclesLeft_le hcycles h⟩
  · rwa [hl]
  · rw [hl]
    exact ppu_wf_of_keepsVideo _ hvideo hppu

/-- R340, R342: a PPU clock keeps the machine sound. -/
theorem ppuClock_wf {s : State} (hs : s.wf) : (ppuClock s).1.wf := by
  obtain ⟨hlaunch, hflat, hram, hlo, hhi, hppu, hcycles⟩ := hs
  exact ⟨hlaunch, hflat, hram, hlo, hhi, wf_advance _ _ (wf_paint _ _ hlaunch hppu), hcycles⟩

/-- R405: so do the PPU clocks of a tick. -/
theorem ppuClocks_wf (n : Nat) {s : State} (hs : s.wf) : (ppuClocks n s).wf := by
  induction n generalizing s with
  | zero => exact hs
  | succ n ih => exact ih (s := { (ppuClock s).1 with frameDone := s.frameDone || (ppuClock s).2 }) (ppuClock_wf hs)

/-- Settles O47: the PPU clocks of the tick keep a sound machine sound (`ppuClocks_wf`), and so does the CPU clock after
them (`cpuClock_wf`). -/
theorem stepKeepsSound : Obligations.StepKeepsSound := by
  unfold Obligations.StepKeepsSound
  intro s t hs ht
  exact cpuClock_wf (ppuClocks_wf Config.ppuClocksPerCpuClock (s := { s with frameDone := false }) hs) ht

/-- R46, R47: the PPU at construction is sound under every launch. -/
theorem ppu_initial_wf (l : Launch) : Ppu.initial.wf l := by
  refine ⟨rfl, rfl, rfl, rfl, fun b => ?_, by decide, by decide, by decide, by decide⟩
  fin_cases b <;> rfl

/-- Settles O46: Reset on the constructed machine computes `State.reset`, whose stores are blank. -/
theorem resetStateIsSound : Obligations.ResetStateIsSound := by
  unfold Obligations.ResetStateIsSound
  exact ⟨by decide, rfl, rfl, rfl, rfl, rfl, rfl, rfl, rfl, rfl, rfl,
    rfl, rfl, rfl, rfl, trivial, ppu_initial_wf _, by decide⟩

end Sys2Proof.Machine

/-! PROOFS. Fetching (O5, O6): the bytes a fetch reads, and that a step runs the instruction they decode to. -/

namespace Sys2Proof

/-- R100: decoding the bytes of an instruction, whatever follows them, gives the instruction back. -/
theorem decode_encode_append (i : Instr) (rest : List Byte) : decode (encode i ++ rest) = .ok (i, rest) := by
  obtain ⟨row, hrow, -, h⟩ := Laws.Encoding.all i
  cases row with
  | implied j =>
    cases ho : i.operand with
    | none =>
      rw [ho] at h
      subst h
      simp [encode, decode, ho, hrow]
    | some o => simp [ho] at h
  | oneByte make =>
    cases ho : i.operand with
    | none => simp [ho] at h
    | some o =>
      rw [ho] at h
      obtain ⟨b, hb, hi⟩ := h
      simp [encode, decode, ho, hb, hrow, hi]
  | twoBytes make =>
    cases ho : i.operand with
    | none => simp [ho] at h
    | some o =>
      rw [ho] at h
      obtain ⟨w, hw, hi⟩ := h
      simp [encode, decode, ho, hw, hrow, hi]

end Sys2Proof

namespace Sys2Proof.Machine

/-- R402 (1c): a fetch whose bytes are an instruction's gives that instruction. -/
theorem fetch_of_encode (s : State) (i : Instr) (h : (fetchInstruction s).1 = encode i) :
    fetch s = .ok (i, (fetchInstruction s).2) := by
  have hd := decode_encode_append i []
  rw [List.append_nil, ← h] at hd
  simp only [fetch, hd]

/-- R372, R402: a CPU clock where an instruction is fetched. -/
theorem cpuClock_fetchesNext (s : State) (h : s.fetchesNext) :
    cpuClock s = countDown (fetchAndExecute (settleMaskedIrq s)) := by
  obtain ⟨h0, hn, hi⟩ := h
  simp only [cpuClock, h0, if_true, atBoundary, hn, hi, Bool.false_eq_true, if_false]

/-- R405: the PPU clocks of a tick leave open what the CPU does next. -/
theorem fetchesNext_ppuClocks (n : Nat) (s : State) : (ppuClocks n s).fetchesNext ↔ s.fetchesNext := by
  obtain ⟨u, d, h, -⟩ := ppuClocks_eq n s
  rw [h]
  rfl

/-- Settles O5: after the PPU clocks of the tick the machine still fetches (`fetchesNext_ppuClocks`), and the fetch gives
the instruction whose encoding the bytes are (`fetch_of_encode`). -/
theorem stepRunsDecodedInstruction : Obligations.StepRunsDecodedInstruction := by
  unfold Obligations.StepRunsDecodedInstruction
  intro s i b hs hb
  have hnext : (ppuClocks 3 { s with frameDone := false }).fetchesNext := (fetchesNext_ppuClocks 3 _).2 hs
  calc step s = countDown (fetchAndExecute b) := cpuClock_fetchesNext _ hnext
    _ = countDown (exec i (fetchInstruction b).2) := by rw [fetchAndExecute, fetch_of_encode b i hb]

/-- R68, R82: an instruction fetched from an address outside the PPU window: its stored opcode and its operand bytes. -/
theorem fetchInstruction_plain (s : State) (h : s.plain s.pc) :
    fetchInstruction s =
      (s.stored s.pc :: (fetchOperands (s.stored s.pc) { s with pc := s.pc + 1 }).1,
        (fetchOperands (s.stored s.pc) { s with pc := s.pc + 1 }).2) := by
  simp only [fetchInstruction, busRead_plain s s.pc h]

/-- R132, log 16: looking at an Immediate operand outside the PPU window answers what fetching it would. -/
theorem fetchOperands_plain (op : Byte) (s : State)
    (h : ∀ k < instrLength op - 1, s.plain (s.pc + BitVec.ofNat 16 k)) :
    fetchOperands op s = fetchBytes (instrLength op - 1) s := by
  unfold fetchOperands
  split
  · rename_i himm
    rw [instrLength_immediate op himm] at h ⊢
    have h0 : s.plain s.pc := by simpa using h 0 (by decide)
    simp only [fetchBytes, busRead_plain s s.pc h0, peek_eq_stored s s.pc h0]
  · rfl

/-- R68, R82, R109: an instruction outside the PPU window is fetched as its bytes are. -/
theorem fetchInstruction_eq_fetchBytes (s : State)
    (h : ∀ k < instrLength (s.stored s.pc), s.plain (s.pc + BitVec.ofNat 16 k)) :
    fetchInstruction s = fetchBytes (instrLength (s.stored s.pc)) s := by
  have hpos := instrLength_pos (s.stored s.pc)
  have h0 : s.plain s.pc := by simpa using h 0 hpos
  have hrest : ∀ k < instrLength (s.stored s.pc) - 1, s.plain (s.pc + 1 + BitVec.ofNat 16 k) := fun k hk => by
    rw [address_succ]
    exact h (k + 1) (by omega)
  rw [fetchInstruction_plain s h0, fetchOperands_plain _ _ hrest]
  obtain ⟨n, hn⟩ := Nat.exists_eq_add_of_le' hpos
  simp only [hn, Nat.add_sub_cancel, fetchBytes, busRead_plain s s.pc h0]

/-- Settles O6: bytes by `fetchBytes_plain`, an instruction by `fetchInstruction_eq_fetchBytes`, and an Immediate operand
by the definition of `fetchOperands`, which only looks at it. -/
theorem fetchReadsStoredBytes : Obligations.FetchReadsStoredBytes := by
  unfold Obligations.FetchReadsStoredBytes
  refine ⟨fetchBytes_plain, fun s => ?_, fun s h himm => ?_⟩
  · intro n h
    rw [fetchInstruction_eq_fetchBytes s h]
    exact fetchBytes_plain n s h
  · rw [fetchInstruction_plain s h, fetchOperands, if_pos himm]
    simp only [BitVec.add_assoc]
    rfl

end Sys2Proof.Machine

/-! PROOFS. The stack: a pull undoes a push, and RTS a JSR (O28, O30). -/

namespace Sys2Proof.Machine

/-- R302, R303, R304: the addresses of memory are those in a slot of a Memory device. -/
theorem isMemory_iff (s : State) (a : Word) :
    s.isMemory a ↔ s.deviceAt a = some .flat ∨ s.deviceAt a = some .banked := by
  simp only [State.isMemory, State.plain, State.translate]
  cases s.deviceAt a with
  | none => simp
  | some d =>
    cases d with
    | flat => simp
    | ppu => simp
    | banked =>
      simp only [bankedCell]
      split
      · simp
      · split
        · simp
        · split <;> simp

/-- R24: the stack page is in one slot, so all of it is memory or none. -/
theorem isMemory_stackAddress (s : State) (p q : Byte) (h : s.isMemory (stackAddress p)) :
    s.isMemory (stackAddress q) := by
  rw [isMemory_iff] at h ⊢
  simpa only [State.deviceAt, slotOf_stackAddress] using h

/-- R28, R64: a pull outside the PPU window gives the stored byte and only moves S. -/
theorem pull_plain (s : State) (h : s.plain (stackAddress (s.sp + 1))) :
    pull s = (s.stored (stackAddress (s.sp + 1)), { s with sp := s.sp + 1 }) :=
  busRead_plain { s with sp := s.sp + 1 } _ h

/-- R27, R28: where the stack is memory, a pull gives back the byte just pushed and the S before the push. -/
theorem pull_push (v : Byte) (s : State) (h : s.isMemory (stackAddress s.sp)) :
    pull (push v s) = (v, { push v s with sp := s.sp }) := by
  have hsp : (push v s).sp + 1 = s.sp := by rw [push_sp, BitVec.sub_add_cancel]
  have hplain : (push v s).plain (stackAddress s.sp) := fun i => by
    rw [push_translate]
    exact h.1 i
  have hstored := (push_storesByte v s).1 _ (List.mem_singleton_self _) (stackAddress s.sp) ⟨rfl, h.2⟩
  rw [pull_plain _ (by rwa [hsp]), hsp, hstored]

/-- Settles O30: the push by `push_storesByte` and `push_frame`, the pull by `pull_state`, the two together by
`pull_push`. -/
theorem stackDiscipline : Obligations.StackDiscipline := by
  unfold Obligations.StackDiscipline
  intro v s
  have hpull := pull_state s
  have hsp : (pull s).2.sp = s.sp + 1 := by
    obtain ⟨n, hn⟩ := hpull
    rw [hn]
  refine ⟨toNat_stackAddress s.sp, push_storesByte v s, ?_, push_frame v s, push_pc v s, ?_, rfl, hpull, fun h => ?_⟩
  · rw [push_sp, BitVec.toNat_sub, Nat.add_comm]
    rfl
  · rw [hsp, BitVec.toNat_add]
    rfl
  · rw [pull_push v s h]
    exact ⟨rfl, rfl⟩

/-- R28, R67: a word pulled outside the PPU window: its low byte at the next stack address, its high byte after it. -/
theorem pullWord_plain (s : State) (hl : s.plain (stackAddress (s.sp + 1))) (hh : s.plain (stackAddress (s.sp + 2))) :
    pullWord s = (joinBytes (s.stored (stackAddress (s.sp + 2))) (s.stored (stackAddress (s.sp + 1))),
      { s with sp := s.sp + 2 }) := by
  have htwo : s.sp + 1 + 1 = s.sp + 2 := BitVec.add_assoc ..
  have hnext := pull_plain { s with sp := s.sp + 1 } (by rw [htwo]; exact hh)
  rw [htwo] at hnext
  simp only [pullWord, pull_plain s hl, hnext]
  rfl

/-- R27, R28, R67: where the stack is memory, a word pulled after a word is pushed is that word, and S is as before the
push, whatever else has changed meanwhile. -/
theorem pullWord_of_pushed (w : Word) (s t : State) (hmem : s.isMemory (stackAddress s.sp))
    (hstores : StoresBytes [(stackAddress s.sp, hiByte w), (stackAddress (s.sp - 1), loByte w)] s t)
    (hsp : t.sp = s.sp - 2) (htranslate : ∀ a, t.translate a = s.translate a) :
    pullWord t = (w, { t with sp := s.sp }) := by
  have hmem' := isMemory_stackAddress s s.sp (s.sp - 1) hmem
  have hplain : ∀ a, s.isMemory a → t.plain a := fun a h i => htranslate a ▸ h.1 i
  have hlow : t.sp + 1 = s.sp - 1 := by rw [hsp]; bv_omega
  have hhigh : t.sp + 2 = s.sp := by rw [hsp, BitVec.sub_add_cancel]
  have hstoredLow := hstores.1 _ (List.mem_cons_of_mem _ List.mem_cons_self) (stackAddress (s.sp - 1)) ⟨rfl, hmem'.2⟩
  have hstoredHigh := hstores.1 _ List.mem_cons_self (stackAddress s.sp) ⟨rfl, hmem.2⟩
  rw [pullWord_plain t (hlow ▸ hplain _ hmem') (by rw [hhigh]; exact hplain _ hmem), hlow, hhigh, hstoredLow,
    hstoredHigh, joinBytes_bytes]

/-- Settles O28: RTS pulls the word JSR pushed (`pullWord_of_pushed`) and adds the 1 that JSR subtracted. -/
theorem callThenReturn : Obligations.CallThenReturn := by
  unfold Obligations.CallThenReturn
  intro w s t hs ht
  obtain ⟨hr, hp, -, -, -, hslots, hbank, -⟩ := pushWord_keeps (s.pc - 1) s
  have hpull : pullWord t = (s.pc - 1, { t with sp := s.sp }) := by
    cases ht
    exact pullWord_of_pushed (s.pc - 1) s _ hs (pushWord_stores (s.pc - 1) s) (pushWord_sp (s.pc - 1) s)
      (translate_congr s _ hslots hbank)
  have hreturn : returnFromCall t = { t with sp := s.sp, pc := s.pc } := by
    rw [returnFromCall, hpull]
    simp only [BitVec.sub_add_cancel]
  refine ⟨charge 6 false false (returnFromCall t), rfl, ?_⟩
  rw [hreturn]
  cases ht
  exact ⟨rfl, rfl, hr .a (by decide), hr .x (by decide), hr .y (by decide), hp⟩

end Sys2Proof.Machine

/-! PROOFS. The loader (O59): what a load that succeeds leaves, when one succeeds, and the ROM buffer accessor. -/

namespace Sys2Proof.Machine

/-- R37, R311, R312: the high bank after a load: aliased as before with one program bank, or filled from the image with
two. -/
theorem loadHighBank_cases {image : List Byte} {offset banks : Nat} {s : State} {hi : HighBank}
    (h : loadHighBank image offset banks s = some hi) :
    banks = 1 ∧ s.bankHi = .mirrored ∧ hi = .mirrored ∨
      banks = 2 ∧ ∃ m, imageSlice image offset Config.romBankSize = some m ∧ hi = .own m := by
  unfold loadHighBank at h
  split at h
  · rename_i hb
    cases h
    exact .inl ⟨rfl, hb, rfl⟩
  · obtain ⟨m, hm, rfl⟩ := Option.map_eq_some_iff.1 h
    exact .inr ⟨rfl, m, hm, rfl⟩
  · cases h

/-- R37, R311, R312: one program bank loads on an aliased high bank, two load where the image has them. -/
theorem loadHighBank_isSome {image : List Byte} {offset banks : Nat} {s : State}
    (h : banks = 1 ∧ s.bankHi = .mirrored ∨ banks = 2)
    (hlen : offset + Config.romBankSize * (banks - 1) ≤ image.length) :
    ∃ hi, loadHighBank image offset banks s = some hi := by
  rcases h with ⟨rfl, hb⟩ | rfl
  · exact ⟨.mirrored, by unfold loadHighBank; rw [hb]; rfl⟩
  · obtain ⟨m, hm⟩ := imageSlice_some image offset Config.romBankSize hlen
    exact ⟨.own m, by unfold loadHighBank; rw [hm]; rfl⟩

/-- R312: pattern memory after a load. -/
def loadPattern (image : List Byte) (offset : Nat) (s : State) : Option Memory :=
  if image.getD 5 0 = 0 then some s.ppu.chr else imageSlice image offset Config.chrSize

/-- R312: pattern memory is loaded where the image has it. -/
theorem loadPattern_isSome {image : List Byte} {offset : Nat} (s : State)
    (hlen : offset + (if image.getD 5 0 = 0 then 0 else Config.chrSize) ≤ image.length) :
    ∃ chr, loadPattern image offset s = some chr := by
  unfold loadPattern
  split
  · exact ⟨_, rfl⟩
  · rename_i h5
    rw [if_neg h5] at hlen
    exact imageSlice_some image offset Config.chrSize hlen

/-- R312: a load is three copies from the image, the low bank, the high bank and pattern memory. -/
theorem loadCartridge_eq_some_iff (image : List Byte) (s t : State) :
    loadCartridge image s = some t ↔
      ∃ lo, imageSlice image (programOffset image) Config.romBankSize = some lo ∧
      ∃ hi, loadHighBank image (programOffset image + Config.romBankSize) (image.getD 4 0).toNat s = some hi ∧
      ∃ chr, loadPattern image (programOffset image + Config.romBankSize * (image.getD 4 0).toNat) s = some chr ∧
        t = { s with bankLo := lo, bankHi := hi, ppu := { s.ppu with chr := chr } } := by
  by_cases h5 : image.getD 5 0 = 0
  · simp only [loadCartridge, loadPattern, if_pos h5, bind, Option.bind_eq_some_iff, pure, Option.some.injEq,
      @eq_comm _ t]
  · simp only [loadCartridge, loadPattern, if_neg h5, bind, Option.bind_eq_some_iff, pure, Option.some.injEq,
      @eq_comm _ t]

/-- R312: what a load that succeeds leaves. -/
theorem loadCartridge_leaves {image : List Byte} {s t : State} (h : loadCartridge image s = some t) :
    (∀ k < Config.romBankSize, t.bankLo.get k = image.getD (programOffset image + k) 0) ∧
    ((image.getD 4 0).toNat = 1 ∧ s.bankHi = .mirrored ∧ t.bankHi = .mirrored ∨
      (image.getD 4 0).toNat = 2 ∧ ∃ m, t.bankHi = .own m ∧ ∀ k < Config.romBankSize,
        m.get k = image.getD (programOffset image + Config.romBankSize + k) 0) ∧
    (image.getD 5 0 ≠ 0 → ∀ k < Config.chrSize, t.ppu.chr.get k =
      image.getD (programOffset image + Config.romBankSize * (image.getD 4 0).toNat + k) 0) ∧
    (image.getD 5 0 = 0 → t.ppu.chr = s.ppu.chr) ∧
    t = { s with bankLo := t.bankLo, bankHi := t.bankHi, ppu := { s.ppu with chr := t.ppu.chr } } := by
  obtain ⟨lo, hlo, hi, hhi, chr, hchr, rfl⟩ := (loadCartridge_eq_some_iff image s t).1 h
  unfold loadPattern at hchr
  refine ⟨get_imageSlice image _ _ lo hlo, ?_, fun h5 => ?_, fun h5 => ?_, rfl⟩
  · rcases loadHighBank_cases hhi with hone | ⟨htwo, m, hm, rfl⟩
    · exact .inl hone
    · exact .inr ⟨htwo, m, rfl, get_imageSlice image _ _ m hm⟩
  · rw [if_neg h5] at hchr
    exact get_imageSlice image _ _ chr hchr
  · rw [if_pos h5] at hchr
    exact (Option.some.inj hchr).symm

/-- R312: one bank on an aliased high bank, and two banks, load from an image that is long enough. -/
theorem loadCartridge_isSome {image : List Byte} {s : State}
    (h : (image.getD 4 0).toNat = 1 ∧ s.bankHi = .mirrored ∨ (image.getD 4 0).toNat = 2)
    (hlen : programOffset image + Config.romBankSize * (image.getD 4 0).toNat +
      (if image.getD 5 0 = 0 then 0 else Config.chrSize) ≤ image.length) :
    ∃ t, loadCartridge image s = some t := by
  obtain ⟨chr, hchr⟩ := loadPattern_isSome s hlen
  have hbanks : programOffset image + Config.romBankSize +
      Config.romBankSize * ((image.getD 4 0).toNat - 1) ≤ image.length := by
    rcases h with ⟨h4, -⟩ | h4 <;> rw [h4] at hlen ⊢ <;> omega
  obtain ⟨hi, hhi⟩ := loadHighBank_isSome h hbanks
  obtain ⟨lo, hlo⟩ := imageSlice_some image (programOffset image) Config.romBankSize (by omega)
  exact ⟨_, (loadCartridge_eq_some_iff image s _).2 ⟨lo, hlo, hi, hhi, chr, hchr, rfl⟩⟩

/-- R311, log 21: one bank does not load on an independent high bank. -/
theorem loadCartridge_eq_none {image : List Byte} {s : State} (h4 : (image.getD 4 0).toNat = 1)
    (hown : s.bankHi ≠ .mirrored) : loadCartridge image s = none := by
  refine Option.eq_none_iff_forall_ne_some.2 fun t ht => ?_
  obtain ⟨-, -, hi, hhi, -⟩ := (loadCartridge_eq_some_iff image s t).1 ht
  rcases loadHighBank_cases hhi with ⟨-, hb, -⟩ | ⟨h2, -⟩
  · exact hown hb
  · omega

/-- R311: a constructed machine has no independent high bank. -/
theorem construct_bankHi {l : Launch} {m : PlatformMap} {s : State} (h : construct l m = some s) :
    s.bankHi = .mirrored := by
  obtain ⟨slots, -, rfl⟩ := Option.map_eq_some_iff.1 h
  rfl

/-- R310: the accessor allocates an independent high bank where there is none, and answers it. -/
theorem getRomBuffer_high_mirrored (fresh : Memory) (s : State) (h : s.bankHi = .mirrored) :
    getRomBuffer .high fresh s = (fresh, { s with bankHi := .own fresh }) := by
  simp only [getRomBuffer, requestBank, h]

/-- R310, R311: and it answers the one there is. -/
theorem getRomBuffer_high_own (fresh m : Memory) (s : State) (h : s.bankHi = .own m) :
    getRomBuffer .high fresh s = (m, s) := by
  simp only [getRomBuffer, requestBank, h]

/-- Settles O59: a successful load by `loadCartridge_leaves`, its premises by `loadCartridge_isSome` and
`loadCartridge_eq_none`, and the high bank's one allocation by `getRomBuffer_high_mirrored` and `getRomBuffer_high_own`. -/
theorem loadContract : Obligations.LoadContract := by
  unfold Obligations.LoadContract
  exact ⟨fun image s t => loadCartridge_leaves,
    fun image s => ⟨loadCartridge_isSome, loadCartridge_eq_none⟩,
    fun l m s => construct_bankHi,
    fun fresh s => ⟨rfl, getRomBuffer_high_mirrored fresh s, fun m => getRomBuffer_high_own fresh m s⟩⟩

end Sys2Proof.Machine

/-! PROOFS. The Bus and the tick: an empty slot (O48), that every step answers a next state (O10), and that a PPU clock
and a CPU clock commute (O58). -/

namespace Sys2Proof.Machine

/-! ### An empty slot -/

/-- R63: an address in an empty slot reaches no storage cell. -/
theorem translate_unmapped {s : State} {a : Word} (h : s.deviceAt a = none) : s.translate a = none := by
  rw [State.translate, h]

/-- R64, R66: a read in an empty slot answers 0x00 and changes nothing. -/
theorem busRead_unmapped {s : State} {a : Word} (h : s.deviceAt a = none) : busRead a s = (0x00, s) := by
  have ht := translate_unmapped h
  have hplain : s.plain a := fun i hi => by cases ht.symm.trans hi
  rw [busRead_plain s a hplain, State.stored, ht]

/-- R65, R66: a write in an empty slot is dropped. -/
theorem busWrite_unmapped {s : State} {a : Word} (v : Byte) (h : s.deviceAt a = none) : busWrite a v s = s := by
  rw [busWrite, translate_unmapped h]

/-- R66: the one byte fetched in an empty slot is the encoding of BRK. -/
theorem fetchInstruction_unmapped {s : State} (h : s.deviceAt s.pc = none) :
    fetchInstruction s = (encode .brk, { s with pc := s.pc + 1 }) := by
  rw [fetchInstruction, busRead_unmapped h]
  rfl

/-- R66: an instruction fetched in an empty slot is BRK. -/
theorem fetch_unmapped {s : State} (h : s.deviceAt s.pc = none) : fetch s = .ok (.brk, { s with pc := s.pc + 1 }) := by
  have hfetch := fetchInstruction_unmapped h
  rw [fetch_of_encode s .brk (by rw [hfetch]), hfetch]

/-- R66, R67: a word read in empty slots is 0x0000. -/
theorem readPair_unmapped {s : State} {a b : Word} (ha : s.deviceAt a = none) (hb : s.deviceAt b = none) :
    readPair a b s = (0x0000, s) := by
  simp only [readPair, busRead_unmapped ha, busRead_unmapped hb]
  rfl

/-- Settles O48: the reads by `busRead_unmapped`, the writes by `busWrite_unmapped`, the fetch by `fetch_unmapped` and the
vector by `readPair_unmapped`. -/
theorem unmappedSlots : Obligations.UnmappedSlots := by
  unfold Obligations.UnmappedSlots
  intro s a v (ha : s.deviceAt a = none)
  refine ⟨busRead_unmapped ha, busWrite_unmapped v ha, ?_, ?_, fun b hb => readPair_unmapped ha hb⟩
  · rw [busWrite_unmapped v ha, busRead_unmapped ha]
  · rintro rfl
    exact fetch_unmapped ha

/-! ### No clock stops the machine -/

/-- R379, R391: every CPU clock answers a next state. -/
theorem cpuClock_next (s : State) : ∃ t, cpuClock s = .next t := by
  rcases cpuClock_cases s with ⟨-, h⟩ | ⟨-, -, h⟩ | ⟨-, -, -, h⟩ | ⟨-, i, u, v, -, -, -, -, h⟩ <;> exact ⟨_, h⟩

/-- Settles O10: a step ends with a CPU clock, and that answers a next state (`cpuClock_next`), since every opcode byte
decodes (`fetch_next`) and every instruction completes (`exec_next`). -/
theorem stepNeverStops : Obligations.StepNeverStops := by
  unfold Obligations.StepNeverStops
  exact fun s => cpuClock_next _

/-! ### The order inside a tick -/

/-- R334, R341: where the PPU of `t` is that of `s` but for its register file, a PPU clock of `t` paints, counts and
returns what one of `s` does; it replaces of `t` only what no Bus access can see. -/
theorem ppuClock_of_keepsVideo {s t : State} (hv : KeepsVideo s t) (hl : t.launch = s.launch) :
    ppuClock t = (relabel id (ppuClock s).1.ppu t, (ppuClock s).2) := by
  have hstores : t.ppu = s.ppu.withStores t.ppu := by
    unfold KeepsVideo at hv
    rw [hv]
    rfl
  have hclock := clock_withStores s.ppu t.ppu (Launch.frameSize t.launch)
  rw [← hstores] at hclock
  rw [ppuClock_eq t, hclock, ppuClock_eq s, ← hl]
  rfl

/-- Settles O58: before and after the CPU clock, the PPU clock is one and the same relabelling
(`ppuClock_of_keepsVideo`), which the CPU clock does not see (`cpuClock_relabel`). -/
theorem tickOrderIsUnobservable : Obligations.TickOrderIsUnobservable := by
  unfold Obligations.TickOrderIsUnobservable
  intro s
  obtain ⟨t, ht⟩ := cpuClock_next s
  obtain ⟨-, -, hvideo, hlaunch, -⟩ := cpuClock_keepsMachine ht
  have hbefore : (ppuClock s).1 = relabel id (ppuClock s).1.ppu s :=
    congrArg Prod.fst (ppuClock_of_keepsVideo (s := s) rfl rfl)
  have hafter := ppuClock_of_keepsVideo hvideo hlaunch
  refine ⟨t, ht, ?_, by rw [hafter], fun u => rfl⟩
  calc cpuClock (ppuClock s).1 = cpuClock (relabel id (ppuClock s).1.ppu s) := congrArg cpuClock hbefore
    _ = relabelResult id (ppuClock s).1.ppu (cpuClock s) := cpuClock_relabel s
    _ = .next (ppuClock t).1 := by rw [ht, hafter]; rfl

end Sys2Proof.Machine

/-! PROOFS. Encoding: decode and encode are each other's inverses (O1 to O4), and the disassembler (O60). -/

namespace Sys2Proof

/-! ### Decode and encode -/

/-- Settles O1: each byte string is the encoding of the instruction named, so `decode_encode_append` decodes it. -/
theorem specBytesDecode : Obligations.SpecBytesDecode := by
  unfold Obligations.SpecBytesDecode
  exact ⟨decode_encode_append (.oraAbs 0xABCD) [], decode_encode_append (.ldaImm 0x10) [],
    decode_encode_append (.staZp 0x00) [], decode_encode_append (.ldaAbx 0x12F0) [],
    decode_encode_append (.jmpInd 0x02FF) [], decode_encode_append (.ldaIzx 0x20) [],
    decode_encode_append (.ldaIzy 0x86) [], decode_encode_append (.ldxZpy 0xFF) [],
    decode_encode_append (.bneRel 0xF9) [], decode_encode_append (.jsrAbs 0x1234) [],
    decode_encode_append .brk [], decode_encode_append .clc [], decode_encode_append (.sloZp 0x10) [],
    decode_encode_append (.nopAbx1C 0x02FF) []⟩

/-- Settles O2: an instruction's opcode byte leads to the row that rebuilds it from its own operand bytes
(`Laws.Encoding.all`), which is `decode_encode_append`. -/
theorem decodeOfEncode : Obligations.DecodeOfEncode := by
  unfold Obligations.DecodeOfEncode
  exact decode_encode_append

/-- R108: two instructions never share their bytes. -/
theorem encode_injective {i j : Instr} (h : encode i = encode j) : i = j := by
  have hi := decode_encode_append i []
  rw [h, decode_encode_append j []] at hi
  cases hi
  rfl

/-- R103, R108: what decodes was built by the row of its opcode byte, from the operand bytes it takes. -/
theorem eq_encode_append_of_decode {bytes rest : List Byte} {i : Instr} (h : decode bytes = .ok (i, rest)) :
    bytes = encode i ++ rest := by
  cases bytes with
  | nil => cases h
  | cons op operands =>
    obtain ⟨row, hr⟩ := Option.isSome_iff_exists.mp (rowOf_isSome op)
    have hs := rowOf_standsAt op row hr
    simp only [decode, hr] at h
    cases row with
    | implied j =>
      cases h
      rw [hs]
      rfl
    | oneByte make =>
      match operands, h with
      | b :: _, h =>
        cases h
        rw [hs b]
        rfl
    | twoBytes make =>
      match operands, h with
      | b :: c :: _, h =>
        cases h
        rw [hs, loByte_joinBytes, hiByte_joinBytes]
        rfl

/-- Settles O3, by `eq_encode_append_of_decode`: every row builds instructions of its own opcode byte and of the operand
bytes given to it (`rowOf_standsAt`). -/
theorem encodeOfDecode : Obligations.EncodeOfDecode := by
  unfold Obligations.EncodeOfDecode
  exact fun bytes rest i => eq_encode_append_of_decode

/-! ### The opcode byte determines the table entry -/

/-- R109: the length of an instruction is found from its opcode byte. -/
theorem length_eq_instrLength (i : Instr) : i.length = instrLength i.opcode := by
  obtain ⟨row, hrow, hlen, -⟩ := Laws.Encoding.all i
  simp only [instrLength, hrow, hlen]

/-- R101: no format takes more than two operand bytes. -/
theorem instrLength_le (op : Byte) : instrLength op ≤ 3 := by
  unfold instrLength
  split
  · rename_i row _
    cases row <;> simp [OpcodeRow.length]
  · decide

/-- The columns of a table entry that are not in the bytes: mnemonic, format and base cycles (R104). -/
def Instr.entry (i : Instr) : Mnemonic × Machine.Format × Nat := (i.mnemonic, Machine.formatOf i, i.baseCycles)

/-- The entry of a row, read off the instruction it builds from zero operand bytes. -/
def OpcodeRow.entry : OpcodeRow → Mnemonic × Machine.Format × Nat
  | .implied i => i.entry
  | .oneByte make => (make 0).entry
  | .twoBytes make => (make 0).entry

/-- R102, R104: an instruction's entry is that of the row its opcode byte leads to, whatever its operand is. The opcode
is reduced to a literal first: a number that mentions the operand does not compute. -/
theorem rowOf_entry (i : Instr) : (rowOf i.opcode).map OpcodeRow.entry = some i.entry := by
  cases i <;> dsimp only [Instr.opcode] <;> rfl

/-- R102: instructions with the same opcode byte have the same entry. -/
theorem entry_eq_of_opcode_eq {i j : Instr} (h : j.opcode = i.opcode) : j.entry = i.entry := by
  have hj := rowOf_entry j
  rw [h, rowOf_entry i] at hj
  exact (Option.some.inj hj).symm

/-- R106, R109: an opcode byte and at least two bytes after it decode to an instruction with that opcode, made of as many
of these bytes as the opcode asks for. -/
theorem decode_total (op b1 b2 : Byte) (rest : List Byte) :
    ∃ i : Instr, i.opcode = op ∧
      decode (op :: b1 :: b2 :: rest) = .ok (i, (op :: b1 :: b2 :: rest).drop i.length) := by
  have hle := instrLength_le op
  obtain ⟨i, -, hi⟩ := decode_operands op ((b1 :: b2 :: rest).take (instrLength op - 1))
    (List.length_take_of_le (by simp only [List.length_cons]; omega))
  have hop : i.opcode = op := (List.cons.inj hi).1
  have hlen : i.length = instrLength op := by rw [length_eq_instrLength, hop]
  have hpos := instrLength_pos op
  have hbytes : encode i ++ (op :: b1 :: b2 :: rest).drop i.length = op :: b1 :: b2 :: rest := by
    rw [hi, hlen, ← Nat.sub_add_cancel hpos, List.drop_succ_cons, Nat.add_sub_cancel, List.cons_append,
      List.take_append_drop]
  have hdecode := decode_encode_append i ((op :: b1 :: b2 :: rest).drop i.length)
  rw [hbytes] at hdecode
  exact ⟨i, hop, hdecode⟩

/-- Settles O4: the decoding by `decode_total`, the length by `length_eq_instrLength`, the other columns of the entry by
`entry_eq_of_opcode_eq`. -/
theorem decodingIsTotal : Obligations.DecodingIsTotal := by
  unfold Obligations.DecodingIsTotal
  intro op b1 b2 rest
  obtain ⟨i, hop, hdecode⟩ := decode_total op b1 b2 rest
  have hlen : ∀ j : Instr, j.opcode = op → j.length = instrLength op := by
    rintro j rfl
    exact length_eq_instrLength j
  refine ⟨i, hdecode, hop, hlen i hop, hlen i hop ▸ instrLength_pos op, hlen i hop ▸ instrLength_le op, fun j hj => ?_⟩
  have hentry := entry_eq_of_opcode_eq (hj.trans hop.symm)
  simp only [Instr.entry, Prod.mk.injEq] at hentry
  obtain ⟨hmnemonic, hformat, hcycles⟩ := hentry
  exact ⟨hmnemonic, hformat, (hlen j hj).trans (hlen i hop).symm, hcycles⟩

end Sys2Proof

namespace Sys2Proof.Machine

/-! ### The disassembler -/

/-- R110, R118: what a line shows, as the instruction whose encoding is stored at the line's address. -/
theorem encoding_of_shows {line : Line} {s : State} (h : line.shows s) :
    ∃ i : Instr, line.text = String.ofList (instrText line.address i) ∧ line.length = i.length ∧
      (s.plain line.address → i.opcode = s.stored line.address) ∧
      ((∀ j < i.length, s.plain (line.address + BitVec.ofNat 16 j)) →
        ((List.range i.length).map fun j => s.stored (line.address + BitVec.ofNat 16 j)) = encode i) := by
  obtain ⟨i, op, operands, hencode, htext, hlength, hopcode, hstored⟩ := h
  have hop : i.opcode = op := (List.cons.inj hencode).1
  have hlen : line.length = i.length := by rw [hlength, Instr.length, hencode, List.length_cons]
  rw [hlen] at hstored
  exact ⟨i, htext, hlen, fun hplain => hop.trans (hopcode hplain), fun hplain => by rw [hencode, hstored hplain]⟩

/-- R119: with some ceiling, a disassembly lists from the start address on, and gives PC back. -/
theorem disassemble_eq (start : Word) (count maxBytes : Nat) (s : State) (h : count ≠ 0 ∨ maxBytes ≠ 0) :
    disassemble start count maxBytes s =
      let r := disassembleFrom (if count = 0 then maxBytes else count) 0 maxBytes { s with pc := start }
      some (r.1, { r.2 with pc := s.pc }) := by
  unfold disassemble
  rw [if_neg (by omega)]

/-- R118, R119: what a disassembly with some ceiling answers: its lines, what they cover, why it stops, and that it
changes nothing but the count of draws. -/
theorem disassemble_spec (start : Word) (count maxBytes : Nat) (s : State) (h : count ≠ 0 ∨ maxBytes ≠ 0) :
    ∃ (lines : List Line) (t : State), disassemble start count maxBytes s = some (lines, t) ∧
      (∃ n, t = { s with draws := n }) ∧
      (∀ k line, lines[k]? = some line →
        line.address = start + BitVec.ofNat 16 (coveredBytes (lines.take k)) ∧ line.shows s) ∧
      (count ≠ 0 → lines.length ≤ count) ∧ (maxBytes ≠ 0 → coveredBytes lines ≤ maxBytes) ∧
      (count = 0 ∨ lines.length < count → maxBytes ≠ 0 ∧ ∃ op : Byte, maxBytes < coveredBytes lines + instrLength op ∧
        (s.plain (start + BitVec.ofNat 16 (coveredBytes lines)) →
          op = s.stored (start + BitVec.ofNat 16 (coveredBytes lines)))) := by
  obtain ⟨lines, u, hfrom, ⟨n, hu⟩, hcount, hcovers, hbytes, hstop, hlines⟩ :=
    disassembleFrom_spec (if count = 0 then maxBytes else count) 0 maxBytes { s with pc := start }
  simp only [Nat.zero_add] at hbytes hstop
  refine ⟨lines, { s with draws := n }, by rw [disassemble_eq start count maxBytes s h, hfrom, hu], ⟨n, rfl⟩, hlines,
    fun h0 => by rwa [if_neg h0] at hcount, fun hm => hbytes hm (Nat.zero_le _), fun hshort => ?_⟩
  by_cases hfull : lines.length < if count = 0 then maxBytes else count
  · exact hstop hfull
  · have h0 : count = 0 := hshort.resolve_right fun hlt => hfull (by rwa [if_neg (by omega)])
    have hpos := instrLength_pos (s.stored (start + BitVec.ofNat 16 (coveredBytes lines)))
    rw [if_pos h0] at hfull
    exact ⟨h.resolve_left (not_not_intro h0), _, by omega, fun _ => rfl⟩

/-- R118: where an instruction is stored outside the PPU window, a disassembly of one instruction lists it. -/
theorem disassemble_one (start : Word) (s : State) (i : Instr)
    (hplain : ∀ k < i.length, s.plain (start + BitVec.ofNat 16 k))
    (hstored : ((List.range i.length).map fun k => s.stored (start + BitVec.ofNat 16 k)) = encode i) :
    ∃ t, disassemble start 1 0 s = some ([⟨start, String.ofList (instrText start i), i.length⟩], t) := by
  obtain ⟨lines, t, hlist, -, hlines, hle, -, hstop⟩ := disassemble_spec start 1 0 s (.inl Nat.one_ne_zero)
  have hone : lines.length = 1 :=
    Nat.le_antisymm (hle Nat.one_ne_zero) (Nat.le_of_not_lt fun hlt => (hstop (.inr hlt)).1 rfl)
  obtain ⟨line, rfl⟩ := List.length_eq_one_iff.1 hone
  obtain ⟨haddress, hshows⟩ := hlines 0 line rfl
  obtain ⟨a, text, n⟩ := line
  obtain ⟨j, htext, hlength, hopcode, hbytes⟩ := encoding_of_shows hshows
  simp only [List.take_zero, coveredBytes_nil, address_zero] at haddress htext hlength hopcode hbytes
  subst haddress htext hlength
  have hpos : 0 < i.length := Nat.succ_pos _
  have hhead : s.stored a = i.opcode := by
    have h0 := congrArg (fun l => l[0]?) hstored
    simpa [hpos, encode] using h0
  have hop : j.opcode = i.opcode := (hopcode (by simpa using hplain 0 hpos)).trans hhead
  have hlen : j.length = i.length := by rw [length_eq_instrLength, hop, length_eq_instrLength]
  rw [hlen] at hbytes
  rw [encode_injective ((hbytes hplain).symm.trans hstored)] at hlist
  exact ⟨t, hlist⟩

/-- Settles O60: the listing by `disassemble_spec`, its lines by `encoding_of_shows`, R110's example by
`disassemble_one`; the spellings are computed. -/
theorem disassembly : Obligations.Disassembly := by
  unfold Obligations.Disassembly
  refine ⟨fun start count maxBytes s => ⟨fun h0 hm => ?_, fun h => ?_, ?_⟩, by decide⟩
  · rw [disassemble, if_pos ⟨h0, hm⟩]
  · obtain ⟨lines, t, hlist, hframe, hlines, hcount, hbytes, hstop⟩ := disassemble_spec start count maxBytes s h
    refine ⟨lines, t, hlist, hframe, fun k line hk => ?_, hcount, hbytes, hstop⟩
    obtain ⟨haddress, hshows⟩ := hlines k line hk
    exact ⟨haddress, encoding_of_shows hshows⟩
  · rintro rfl rfl hplain h0 h1 h2
    refine disassemble_one start s (.oraAbs 0xABCD) hplain ?_
    show [s.stored (start + 0), s.stored (start + 1), s.stored (start + 2)] = [0x0D, 0xCD, 0xAB]
    rw [show start + 0 = start from address_zero start, h0, h1, h2]

end Sys2Proof.Machine

/-! PROOFS. The addressing modes: the effective address and the extra-cycle request of each (O11, O12), and which of them
make an instruction one cycle longer (O9). -/

namespace Sys2Proof.Machine

/-! ### The extra cycle (R404) -/

/-- R137, R138, R141, R142: only these modes can request the extra cycle. -/
theorem formatOf_mem_of_modeRequests {i : Instr} {s : State} (h : modeRequestsExtraCycle i s = true) :
    formatOf i ∈ [.abx, .aby, .izy, .rel] := by
  cases ho : i.operand with
  | none => cases (modeRequests_none i s ho).symm.trans h
  | some o =>
    rw [modeRequests_some i o s ho] at h
    cases o with
    | abx w | aby w | izy z | rel d => simp only [formatOf, ho]; decide
    | imm b | zp z | zpx z | zpy z | abs w | ind w | izx z => cases h

/-- Settles O9: every instruction answers a next state (`exec_next`) with its cycles charged (`exec_charges`); the other
modes never make the request (`formatOf_mem_of_modeRequests`). -/
theorem extraCycleRule : Obligations.ExtraCycleRule := by
  unfold Obligations.ExtraCycleRule
  intro i s
  obtain ⟨t, ht, -⟩ := exec_next i s
  exact ⟨⟨t, ht, exec_charges i s t ht⟩, formatOf_mem_of_modeRequests⟩

/-! ### Indexed addresses -/

/-- R137, R138, R141: where the low byte of `ea` is `low + index`, it is below the index exactly when that sum carries. -/
theorem lowByteCarried_iff {ea : Word} {low index : Byte} (h : loByte ea = low + index) :
    lowByteCarried ea index = true ↔ 256 ≤ low.toNat + index.toNat := by
  have hlow := low.isLt
  have hindex := index.isLt
  rw [lowByteCarried, decide_eq_true_iff, h, BitVec.toNat_add]
  omega

/-- R137, R138: the index is added to the low byte, and the high byte is that of the base. -/
theorem toNat_indexedNoCarry (w : Word) (index : Byte) :
    (indexedNoCarry w index).toNat = w.toNat / 256 * 256 + (w.toNat + index.toNat) % 256 := by
  rw [indexedNoCarry, toNat_joinBytes, toNat_hiByte, BitVec.toNat_add, toNat_loByte]
  omega

/-- R137, R138: the request of Absolute Indexed is the carry that is dropped. -/
theorem indexedNoCarry_carried_iff (w : Word) (index : Byte) :
    lowByteCarried (indexedNoCarry w index) index = true ↔ 256 ≤ w.toNat % 256 + index.toNat := by
  have hlow : loByte (indexedNoCarry w index) = loByte w + index := loByte_joinBytes _ _
  rw [lowByteCarried_iff hlow, toNat_loByte]

/-- R141: the index is added to the whole pointer. -/
theorem toNat_add_zeroExtend (h l index : Byte) :
    (joinBytes h l + zeroExtend index).toNat = (h.toNat * 256 + l.toNat + index.toNat) % 65536 := by
  rw [BitVec.toNat_add, toNat_joinBytes, toNat_zeroExtend]
  omega

theorem loByte_add_zeroExtend (h l index : Byte) : loByte (joinBytes h l + zeroExtend index) = l + index := by
  apply BitVec.eq_of_toNat_eq
  rw [toNat_loByte, toNat_add_zeroExtend, BitVec.toNat_add]
  omega

/-- R134, R135: the index is added within page zero. -/
theorem toNat_zeroPageIndexed (z index : Byte) : (zeroExtend (z + index)).toNat = (z.toNat + index.toNat) % 256 := by
  rw [toNat_zeroExtend, BitVec.toNat_add]

/-! ### Branch targets -/

/-- R142: the target is PC plus the signed offset, modulo 65536. -/
theorem toNat_add_signExtend (pc : Word) (d : Byte) :
    ((pc + signExtend d).toNat : Int) = ((pc.toNat : Int) + d.toInt) % 65536 := by
  have hd : (signExtend d).toInt = d.toInt := BitVec.toInt_signExtend_of_le (by decide)
  rw [BitVec.toInt_eq_toNat_cond] at hd
  rw [BitVec.toNat_add]
  split at hd <;> omega

/-- R142: two addresses differ in their high bytes exactly when they lie in different pages. -/
theorem hiByte_bne_iff (v w : Word) : (hiByte v != hiByte w) = true ↔ v.toNat / 256 ≠ w.toNat / 256 := by
  rw [bne_iff_ne, ne_eq, ← BitVec.toNat_inj, toNat_hiByte, toNat_hiByte]

/-! ### The modes -/

/-- Settles O11: each mode's definition gives its address; in numbers it is `toNat_zeroPageIndexed`,
`toNat_indexedNoCarry` and `toNat_add_signExtend`, and the requests are `indexedNoCarry_carried_iff` and
`hiByte_bne_iff`. -/
theorem directModes : Obligations.DirectModes := by
  unfold Obligations.DirectModes
  intro s b w
  exact ⟨rfl, load_imm b s,
    ⟨toNat_zeroExtend b, rfl, rfl⟩,
    ⟨toNat_zeroPageIndexed b s.x, rfl, rfl⟩,
    ⟨toNat_zeroPageIndexed b s.y, rfl, rfl⟩,
    rfl,
    ⟨toNat_indexedNoCarry w s.x, indexedNoCarry_carried_iff w s.x, rfl⟩,
    ⟨toNat_indexedNoCarry w s.y, indexedNoCarry_carried_iff w s.y, rfl⟩,
    ⟨toNat_add_signExtend s.pc b, hiByte_bne_iff _ s.pc, rfl⟩⟩

/-- R141: Y is added to the pointer read in page zero; reading it leaves Y as it was. -/
theorem resolve_izy (z : Byte) (s : State) :
    let pointer := readZeroPagePointer z s
    resolve (.izy z) s =
      ⟨pointer.1 + zeroExtend s.y, lowByteCarried (pointer.1 + zeroExtend s.y) s.y, pointer.2⟩ := by
  have hy : (readZeroPagePointer z s).2.y = s.y := resolve_state_y (.izy z) s
  rw [← hy]
  rfl

/-- Settles O12: the pointer's two reads stand in each mode's definition; IZY's address (`resolve_izy`) is
`toNat_add_zeroExtend` and its request `lowByteCarried_iff`; the read at ea is `load_memory`. -/
theorem pointerModes : Obligations.PointerModes := by
  unfold Obligations.PointerModes
  intro s b w
  refine ⟨rfl, rfl, ?_, fun o ho => load_memory o s ho⟩
  rw [resolve_izy]
  exact ⟨toNat_add_zeroExtend _ _ s.y, lowByteCarried_iff (loByte_add_zeroExtend _ _ s.y), rfl⟩

end Sys2Proof.Machine

/-! PROOFS. Loads, stores and transfers (O13 to O15): the encodings of a mnemonic, read off the opcode map; what
setting one register with SetZN leaves; and the store of a register. -/

namespace Sys2Proof.Machine

/-! ### The encodings of a mnemonic -/

/-- R104: the entries of the opcode map with a mnemonic, in the order of their opcode bytes. -/
def encodingsOf (m : Mnemonic) : List (Byte × Format × Nat) :=
  (List.range 256).filterMap fun k =>
    (rowOf (BitVec.ofNat 8 k)).bind fun row =>
      if row.entry.1 = m then some (BitVec.ofNat 8 k, row.entry.2) else none

/-- R102, R106: every opcode byte begins some instruction. -/
theorem exists_opcode (op : Byte) : ∃ i : Instr, i.opcode = op := by
  obtain ⟨i, hop, -⟩ := decode_total op 0 0 []
  exact ⟨i, hop⟩

theorem mem_encodingsOf (m : Mnemonic) (r : Byte × Format × Nat) :
    r ∈ encodingsOf m ↔ (rowOf r.1).map OpcodeRow.entry = some (m, r.2) := by
  obtain ⟨op, e⟩ := r
  simp only [encodingsOf, List.mem_filterMap, List.mem_range, Option.bind_eq_some_iff, Option.ite_none_right_eq_some,
    Option.some.injEq, Prod.mk.injEq, Option.map_eq_some_iff, Prod.ext_iff (x := OpcodeRow.entry _)]
  constructor
  · rintro ⟨k, -, row, hrow, hm, rfl, he⟩
    exact ⟨row, hrow, hm, he⟩
  · rintro ⟨row, hrow, hm, he⟩
    have hop : BitVec.ofNat 8 op.toNat = op := BitVec.eq_of_toNat_eq (by simp)
    exact ⟨op.toNat, op.isLt, row, by rwa [hop], hm, hop, he⟩

/-- R102, R104: the opcode map's entries with a mnemonic are those of its instructions, since an instruction's entry is
that of its opcode byte (`rowOf_entry`) and every opcode byte is some instruction's. -/
theorem hasEncodings_encodingsOf (m : Mnemonic) : HasEncodings m (encodingsOf m) := by
  intro r
  rw [mem_encodingsOf]
  constructor
  · intro h
    obtain ⟨i, hop⟩ := exists_opcode r.1
    rw [← hop, rowOf_entry i, Option.some.injEq] at h
    obtain ⟨hm, he⟩ := Prod.ext_iff.1 h
    exact ⟨i, hm, Prod.ext hop he⟩
  · rintro ⟨i, rfl, rfl⟩
    exact rowOf_entry i

/-- A list of encodings is a mnemonic's when it is what the opcode map has for it. -/
theorem hasEncodings_of_eq {m : Mnemonic} {rows : List (Byte × Format × Nat)} (h : encodingsOf m = rows) :
    HasEncodings m rows :=
  h ▸ hasEncodings_encodingsOf m

/-! ### Setting one register with SetZN -/

/-- R13: what SetZN(v) leaves in Z and N, in numbers. -/
theorem setsZN_of_setZN {v p : Byte} {t : State} (h : t.p = setZN v p) : SetsZN v t := by
  have hz : t.flag .z = (v == 0) := by simp [State.flag, h]
  have hn : t.flag .n = v.msb := by simp [State.flag, h]
  constructor
  · rw [hz, beq_iff_eq, ← BitVec.toNat_inj]
    rfl
  · rw [hn, BitVec.msb_eq_decide, decide_eq_true_iff]

/-- R13: SetZN changes no flag but Z and N, and not the Break field. -/
theorem keepsStatus_setZN {v : Byte} {s t : State} (h : t.p = setZN v s.p) : KeepsStatus [.z, .n] s t := by
  refine ⟨fun f hf => ?_, ?_⟩
  · simp only [List.mem_cons, List.not_mem_nil, or_false, not_or] at hf
    simp only [State.flag, h, getFlag_setZN, if_neg hf.1, if_neg hf.2]
  · simp only [State.brk, h, getBreak_setZN]

/-- From `s` to `t`, register `r` was set to `m` and SetZN(m) was made; beside that only the count of draws and the
countdown can differ. -/
def SetsRegister (r : Reg) (m : Byte) (s t : State) : Prop :=
  ChangesRegisters s t ∧ t.reg r = m ∧ KeepsRegs [r] s t ∧ t.p = setZN m s.p

theorem keepsRegs_singleton {r : Reg} {s t : State} (h : ∀ q, q ≠ r → t.reg q = s.reg q) : KeepsRegs [r] s t :=
  fun q hq => h q (List.mem_singleton.not.1 hq)

/-- R150: `setA` sets A alone, whatever bytes were drawn before it. -/
theorem setsRegister_setA (m : Byte) (n : Nat) (s : State) : SetsRegister .a m s (setA m { s with draws := n }) :=
  ⟨rfl, rfl, keepsRegs_singleton fun
    | .a, h => absurd rfl h
    | .x, _ | .y, _ | .s, _ => rfl, rfl⟩

/-- R151: `setX` sets X alone. -/
theorem setsRegister_setX (m : Byte) (n : Nat) (s : State) : SetsRegister .x m s (setX m { s with draws := n }) :=
  ⟨rfl, rfl, keepsRegs_singleton fun
    | .x, h => absurd rfl h
    | .a, _ | .y, _ | .s, _ => rfl, rfl⟩

/-- R152: `setY` sets Y alone. -/
theorem setsRegister_setY (m : Byte) (n : Nat) (s : State) : SetsRegister .y m s (setY m { s with draws := n }) :=
  ⟨rfl, rfl, keepsRegs_singleton fun
    | .y, h => absurd rfl h
    | .a, _ | .x, _ | .s, _ => rfl, rfl⟩

/-- An instruction that sets one register with SetZN, once its cycles are charged. -/
theorem SetsRegister.ran {r : Reg} {m : Byte} {s u : State} (h : SetsRegister r m s u) (i : Instr) (xi : Bool) :
    let t := charge i.baseCycles (modeRequestsExtraCycle i s) xi u
    t.reg r = m ∧ SetsZN (t.reg r) t ∧ RanWithoutStore i xi [r] [.z, .n] s t := by
  obtain ⟨hu, hr, hk, hp⟩ := h
  intro t
  have ht : t.reg r = m := hr
  exact ⟨ht, ht.symm ▸ setsZN_of_setZN hp, ranWithoutStore_of i xi _ _ s u hu hk (keepsStatus_setZN hp)⟩

/-! ### Loads -/

/-- R150 to R152: an instruction whose effect is to set register `r` to the operand byte loads it. -/
theorem exec_loadsRegister {r : Reg} {f : Byte → State → State}
    (hset : ∀ m n s, SetsRegister r m s (f m { s with draws := n })) {i : Instr} {o : Operand} (s : State)
    (hf : readEffect i.mnemonic = some f) (ho : i.operand = some o) :
    ∃ t, exec i s = .next t ∧ t.reg r = (load o s).value ∧ SetsZN (t.reg r) t ∧
      RanWithoutStore i true [r] [.z, .n] s t := by
  obtain ⟨n, hn⟩ := execRead_next o i.baseCycles true f s
  rw [← modeRequests_some i o s ho] at hn
  exact ⟨_, (exec_read i s f o hf ho).trans hn, (hset (load o s).value n s).ran i true⟩

/-- Settles O13: each load sets its register to the operand byte with SetZN (`exec_loadsRegister`); the encodings are
the opcode map's. -/
theorem loads : Obligations.Loads := by
  unfold Obligations.Loads
  refine ⟨hasEncodings_of_eq (by decide), hasEncodings_of_eq (by decide), hasEncodings_of_eq (by decide),
    fun i o s ho => ⟨fun hm => ?_, fun hm => ?_, fun hm => ?_⟩⟩
  · exact exec_loadsRegister setsRegister_setA s (by rw [hm]; rfl) ho
  · exact exec_loadsRegister setsRegister_setX s (by rw [hm]; rfl) ho
  · exact exec_loadsRegister setsRegister_setY s (by rw [hm]; rfl) ho

/-! ### Stores -/

/-- R153 to R155: an instruction that stores `f` of the state stores that byte at its effective address and changes
nothing else, where `f` does not look at the count of draws. -/
theorem exec_storesValue {f : State → Byte} (hdraws : ∀ n s, f { s with draws := n } = f s) {i : Instr} {o : Operand}
    (s : State) (hf : storeValue i.mnemonic = some f) (ho : i.operand = some o) :
    ∃ t, exec i s = .next t ∧ RanStoring i (resolve o s).ea (f s) [] [] s t := by
  obtain ⟨n, hn⟩ := execStore_next o i.baseCycles f s
  rw [hdraws] at hn
  exact ⟨_, (exec_store i s f o hf ho).trans hn, ranStoring_of i _ _ _ _ _ s { s with draws := n } rfl
    (fun r _ => by cases r <;> rfl) ⟨fun _ _ => rfl, rfl⟩⟩

/-- Settles O14: each store stores its register (`exec_storesValue`); the encodings are the opcode map's. -/
theorem stores : Obligations.Stores := by
  unfold Obligations.Stores
  refine ⟨hasEncodings_of_eq (by decide), hasEncodings_of_eq (by decide), hasEncodings_of_eq (by decide),
    fun i o s ho => ⟨fun hm => ?_, fun hm => ?_, fun hm => ?_⟩⟩
  · exact exec_storesValue (f := fun t => t.a) (fun _ _ => rfl) s (by rw [hm]; rfl) ho
  · exact exec_storesValue (f := fun t => t.x) (fun _ _ => rfl) s (by rw [hm]; rfl) ho
  · exact exec_storesValue (f := fun t => t.y) (fun _ _ => rfl) s (by rw [hm]; rfl) ho

/-! ### Transfers -/

/-- R131: an Implicit instruction that sets register `r` with SetZN. -/
theorem exec_setsRegister {r : Reg} {m : Byte} {f : State → State} {i : Instr} {s : State}
    (hf : impliedEffect i.mnemonic = some f) (ho : i.operand = none) (hset : SetsRegister r m s (f s)) :
    ∃ t, exec i s = .next t ∧ t.reg r = m ∧ SetsZN (t.reg r) t ∧ RanWithoutStore i false [r] [.z, .n] s t := by
  have hrun := hset.ran i false
  rw [modeRequests_none i s ho] at hrun
  exact ⟨_, exec_implied i s f hf ho, hrun⟩

/-- R161: TXS changes S alone. -/
theorem exec_txs (s : State) :
    ∃ t, exec .txs s = .next t ∧ t.sp = s.x ∧ RanWithoutStore .txs false [.s] [] s t := by
  have hkeeps : KeepsRegs [.s] s (setStackFromX s) := keepsRegs_singleton fun
    | .s, h => absurd rfl h
    | .a, _ | .x, _ | .y, _ => rfl
  exact ⟨_, exec_implied .txs s setStackFromX rfl rfl, rfl,
    ranWithoutStore_of .txs false _ _ s (setStackFromX s) rfl hkeeps ⟨fun _ _ => rfl, rfl⟩⟩

/-- Settles O15: the five transfers with SetZN are `exec_setsRegister`, TXS is `exec_txs`; the encodings are the opcode
map's. -/
theorem transfers : Obligations.Transfers := by
  unfold Obligations.Transfers
  refine ⟨hasEncodings_of_eq (by decide), hasEncodings_of_eq (by decide), hasEncodings_of_eq (by decide),
    hasEncodings_of_eq (by decide), hasEncodings_of_eq (by decide), hasEncodings_of_eq (by decide),
    fun s => ⟨?_, ?_, ?_, ?_, ?_, exec_txs s⟩⟩
  · exact exec_setsRegister (f := fun t => setX t.a t) rfl rfl (setsRegister_setX s.a s.draws s)
  · exact exec_setsRegister (f := fun t => setY t.a t) rfl rfl (setsRegister_setY s.a s.draws s)
  · exact exec_setsRegister (f := fun t => setA t.x t) rfl rfl (setsRegister_setA s.x s.draws s)
  · exact exec_setsRegister (f := fun t => setA t.y t) rfl rfl (setsRegister_setA s.y s.draws s)
  · exact exec_setsRegister (f := fun t => setX t.sp t) rfl rfl (setsRegister_setX s.sp s.draws s)

end Sys2Proof.Machine

/-! PROOFS. Arithmetic and logic (O16 to O23): what adding, comparing and testing leave in A and the flags, in numbers;
the increments; and that no instruction reads the Decimal flag. -/

namespace Sys2Proof.Machine

/-! ### The adder -/

theorem toNat_addResult (a m : Byte) (carry : Bool) :
    (addResult a m carry).toNat = (a.toNat + m.toNat + carry.toNat) % 256 :=
  BitVec.toNat_ofNat _ _

/-- R185: C is the unsigned carry. -/
theorem addCarry_iff (a m : Byte) (carry : Bool) :
    addCarry a m carry = true ↔ 255 < a.toNat + m.toNat + carry.toNat :=
  decide_eq_true_iff

/-- R185: masking with 0x80 leaves the sign bit. -/
theorem and_signBit_ne_zero (b : Byte) : (b &&& 0x80 != 0) = b.msb := by
  revert b
  decide

/-- R26: bit 7 of a byte, by its value. -/
theorem msb_iff (b : Byte) : b.msb = true ↔ 128 ≤ b.toNat := by
  rw [BitVec.msb_eq_decide, decide_eq_true_iff]

/-- R185: the overflow formula says that the operands have one sign and the sum the other. -/
theorem addOverflow_iff_signs (a m : Byte) (carry : Bool) :
    addOverflow a m carry = true ↔
      (128 ≤ a.toNat ↔ 128 ≤ m.toNat) ∧ ¬(128 ≤ a.toNat ↔ 128 ≤ (addResult a m carry).toNat) := by
  rw [addOverflow, and_signBit_ne_zero, BitVec.msb_and, BitVec.msb_not, BitVec.msb_xor, BitVec.msb_xor, ← msb_iff,
    ← msb_iff, ← msb_iff]
  cases a.msb <;> cases m.msb <;> cases (addResult a m carry).msb <;> decide

/-- R185, R187: V is the signed overflow. -/
theorem addOverflow_iff (a m : Byte) (carry : Bool) :
    addOverflow a m carry = true ↔
      a.toInt + m.toInt + carry.toNat < -128 ∨ 127 < a.toInt + m.toInt + carry.toNat := by
  have hcarry := Bool.toNat_le carry
  rw [addOverflow_iff_signs, toNat_addResult, BitVec.toInt_eq_toNat_cond, BitVec.toInt_eq_toNat_cond]
  omega

/-- R185: AddWithCarry changes no flag but C, Z, V and N. -/
theorem keepsStatus_addFlags {a m : Byte} {s t : State} (h : t.p = addFlags a m s.p) :
    KeepsStatus [.c, .z, .v, .n] s t := by
  refine ⟨fun f hf => ?_, by rw [State.brk, h, getBreak_addFlags]; rfl⟩
  simp only [List.mem_cons, List.not_mem_nil, or_false, not_or] at hf
  simp [State.flag, h, getFlag_addFlags, hf]

/-- R185: what AddWithCarry leaves in A and the four flags, in numbers. -/
theorem adds_addWithCarry (m : Byte) (s : State) : Adds s.a m (s.flag .c) (addWithCarry m s) := by
  refine ⟨toNat_addResult _ _ _, ?_, ?_, setsZN_of_setZN rfl⟩
  · simp [State.flag, getFlag_addFlags, addCarry_iff]
  · simp [State.flag, getFlag_addFlags, addOverflow_iff]

/-- R171: adding the complement and the carry subtracts the operand and the borrow. -/
theorem subtracts_of_adds_not {a m : Byte} {carry : Bool} {t : State} (h : Adds a (~~~m) carry t) :
    Subtracts a m carry t := by
  obtain ⟨ha, hc, hv, hzn⟩ := h
  have hnot : (~~~m).toNat = 255 - m.toNat := BitVec.toNat_not
  have hint : (~~~m).toInt = -m.toInt - 1 := by
    rw [BitVec.toInt_eq_toNat_cond, BitVec.toInt_eq_toNat_cond, hnot]
    omega
  have hborrow : ((!carry).toNat : Int) = 1 - carry.toNat := by cases carry <;> rfl
  refine ⟨?_, ?_, ?_, hzn⟩
  · rw [ha, hborrow]
    omega
  · rw [hc, hborrow]
    omega
  · rw [hv, hborrow, hint]
    omega

/-! ### The instructions that read an operand -/

/-- R404: an instruction that reads an operand, with the extra-cycle request that is its own. -/
theorem exec_readEffect {f : Byte → State → State} {xi : Bool} {i : Instr} {o : Operand} {s : State}
    (hf : readEffect i.mnemonic = some f) (ho : i.operand = some o) (hx : requestsExtraCycle i s = xi) :
    ∃ n, exec i s = .next (charge i.baseCycles (modeRequestsExtraCycle i s) xi
      (f (load o s).value { s with draws := n })) := by
  obtain ⟨n, hn⟩ := execRead_next o i.baseCycles true f s
  rw [← modeRequests_some i o s ho] at hn
  refine ⟨n, (exec_read i s f o hf ho).trans (hn.trans ?_)⟩
  cases hmode : modeRequestsExtraCycle i s with
  | false => rfl
  | true => rw [← hx, readEffect_requests i s f hf hmode]

/-- R170, R171: an addition, once its cycles are charged. -/
theorem addWithCarry_ran (i : Instr) (xi : Bool) (m : Byte) (n : Nat) (s : State) :
    let t := charge i.baseCycles (modeRequestsExtraCycle i s) xi (addWithCarry m { s with draws := n })
    Adds s.a m (s.flag .c) t ∧ RanWithoutStore i xi [.a] [.c, .z, .v, .n] s t := by
  have hkeeps : KeepsRegs [.a] s (addWithCarry m { s with draws := n }) := keepsRegs_singleton fun
    | .a, h => absurd rfl h
    | .x, _ | .y, _ | .s, _ => rfl
  exact ⟨adds_addWithCarry m { s with draws := n },
    ranWithoutStore_of i xi _ _ s _ rfl hkeeps (keepsStatus_addFlags (a := s.a) (m := m) rfl)⟩

/-- Settles O16: ADC is AddWithCarry of its operand (`addWithCarry_ran`); the encodings are the opcode map's. -/
theorem addWithCarry_holds : Obligations.AddWithCarry := by
  unfold Obligations.AddWithCarry
  refine ⟨hasEncodings_of_eq (by decide), fun i o s ho hm => ?_⟩
  obtain ⟨n, hn⟩ := exec_readEffect (f := addWithCarry) (xi := true) (s := s) (by rw [hm]; rfl) ho
    (by rw [requestsExtraCycle, hm])
  exact ⟨_, hn, addWithCarry_ran i true _ n s⟩

/-- Settles O17: SBC is AddWithCarry of its operand's complement (`subtracts_of_adds_not`); the encodings are the opcode
map's. -/
theorem subtractWithCarry_holds : Obligations.SubtractWithCarry := by
  unfold Obligations.SubtractWithCarry
  refine ⟨hasEncodings_of_eq (by decide), fun i o s ho hm => ?_⟩
  obtain ⟨n, hn⟩ := exec_readEffect (f := subtractWithCarry) (xi := true) (s := s) (by rw [hm]; rfl) ho
    (by rw [requestsExtraCycle, hm])
  obtain ⟨hadds, hran⟩ := addWithCarry_ran i true ((load o s).value ^^^ 0xFF) n s
  exact ⟨_, hn, subtracts_of_adds_not (BitVec.xor_allOnes ▸ hadds), hran⟩

/-! ### AND, ORA, EOR -/

/-- R172 to R174: an instruction that combines A with its operand by `value` combines them bit by bit where `value`
does. -/
theorem exec_bitwise {value : Byte → Byte → Byte} {op : Bool → Bool → Bool} {i : Instr} {o : Operand} {s : State}
    (hbits : ∀ a m k, (value a m).getLsbD k = op (a.getLsbD k) (m.getLsbD k))
    (hf : readEffect i.mnemonic = some fun m t => setA (value t.a m) t) (ho : i.operand = some o)
    (hx : requestsExtraCycle i s = true) :
    ∃ t, exec i s = .next t ∧ (∀ k, t.a.getLsbD k = op (s.a.getLsbD k) ((load o s).value.getLsbD k)) ∧ SetsZN t.a t ∧
      RanWithoutStore i true [.a] [.z, .n] s t := by
  obtain ⟨n, hn⟩ := exec_readEffect hf ho hx
  obtain ⟨ha, hran⟩ := (setsRegister_setA (value s.a (load o s).value) n s).ran i true
  exact ⟨_, hn, fun k => hbits _ _ k, hran⟩

/-- Settles O19: the three are `exec_bitwise`; the encodings are the opcode map's. -/
theorem bitwiseOperations : Obligations.BitwiseOperations := by
  unfold Obligations.BitwiseOperations
  refine ⟨hasEncodings_of_eq (by decide), hasEncodings_of_eq (by decide), hasEncodings_of_eq (by decide),
    fun i o s ho => ⟨fun hm => ?_, fun hm => ?_, fun hm => ?_⟩⟩
  · exact exec_bitwise (fun _ _ _ => BitVec.getLsbD_and) (by rw [hm]; rfl) ho (by rw [requestsExtraCycle, hm])
  · exact exec_bitwise (fun _ _ _ => BitVec.getLsbD_or) (by rw [hm]; rfl) ho (by rw [requestsExtraCycle, hm])
  · exact exec_bitwise (fun _ _ _ => BitVec.getLsbD_xor) (by rw [hm]; rfl) ho (by rw [requestsExtraCycle, hm])

/-! ### The instructions that change P alone -/

/-- An instruction that changes P alone, once its cycles are charged. -/
theorem ranWithoutStore_status (i : Instr) (xi : Bool) (p : Byte) (n : Nat) {flags : List Flag} {s : State}
    (h : KeepsStatus flags s { s with p := p, draws := n }) :
    RanWithoutStore i xi [] flags s
      (charge i.baseCycles (modeRequestsExtraCycle i s) xi { s with p := p, draws := n }) :=
  ranWithoutStore_of i xi _ _ s _ rfl (fun r _ => by cases r <;> rfl) h

/-- R186: Compare changes no flag but C, Z and N. -/
theorem keepsStatus_compareFlags {r m : Byte} {s t : State} (h : t.p = compareFlags r m s.p) :
    KeepsStatus [.c, .z, .n] s t := by
  refine ⟨fun f hf => ?_, by rw [State.brk, h, getBreak_compareFlags]; rfl⟩
  simp only [List.mem_cons, List.not_mem_nil, or_false, not_or] at hf
  simp [State.flag, h, getFlag_compareFlags, hf]

/-- R186: what Compare leaves in C, Z and N, in numbers. -/
theorem compares_of_compareFlags {r m p : Byte} {t : State} (h : t.p = compareFlags r m p) : Compares r m t := by
  have hflag : ∀ f, t.flag f = getFlag f (compareFlags r m p) := fun f => by rw [State.flag, h]
  refine ⟨?_, ?_, ?_⟩
  · simp [hflag, getFlag_compareFlags]
  · simp [hflag, getFlag_compareFlags]
  · have hr := r.isLt
    have hm := m.isLt
    simp only [hflag, getFlag_compareFlags, if_true, msb_iff, BitVec.toNat_sub]
    omega

/-- R175 to R177: a comparison of `reg` of the state with the operand, where `reg` does not look at the count of
draws. -/
theorem exec_compares {reg : State → Byte} (hdraws : ∀ n s, reg { s with draws := n } = reg s) {xi : Bool} {i : Instr}
    {o : Operand} {s : State} (hf : readEffect i.mnemonic = some fun m t => compareWith (reg t) m t)
    (ho : i.operand = some o) (hx : requestsExtraCycle i s = xi) :
    ∃ t, exec i s = .next t ∧ Compares (reg s) (load o s).value t ∧ RanWithoutStore i xi [] [.c, .z, .n] s t := by
  obtain ⟨n, hn⟩ := exec_readEffect hf ho hx
  rw [hdraws] at hn
  exact ⟨_, hn, compares_of_compareFlags rfl,
    ranWithoutStore_status i xi _ n (keepsStatus_compareFlags (r := reg s) (m := (load o s).value) rfl)⟩

/-- Settles O21: the three are `exec_compares`, of A, X and Y; the encodings are the opcode map's. -/
theorem comparisons : Obligations.Comparisons := by
  unfold Obligations.Comparisons
  refine ⟨hasEncodings_of_eq (by decide), hasEncodings_of_eq (by decide), hasEncodings_of_eq (by decide),
    fun i o s ho => ⟨fun hm => ?_, fun hm => ?_, fun hm => ?_⟩⟩
  · exact exec_compares (reg := fun t => t.a) (fun _ _ => rfl) (by rw [hm]; rfl) ho (by rw [requestsExtraCycle, hm])
  · exact exec_compares (reg := fun t => t.x) (fun _ _ => rfl) (by rw [hm]; rfl) ho (by rw [requestsExtraCycle, hm])
  · exact exec_compares (reg := fun t => t.y) (fun _ _ => rfl) (by rw [hm]; rfl) ho (by rw [requestsExtraCycle, hm])

/-- R178: BIT changes no flag but Z, V and N. -/
theorem keepsStatus_bitFlags {a m : Byte} {s t : State} (h : t.p = bitFlags a m s.p) :
    KeepsStatus [.z, .v, .n] s t := by
  refine ⟨fun f hf => ?_, by rw [State.brk, h, getBreak_bitFlags]; rfl⟩
  simp only [List.mem_cons, List.not_mem_nil, or_false, not_or] at hf
  simp [State.flag, h, getFlag_bitFlags, hf]

/-- Settles O20: BIT changes P alone, as `getFlag_bitFlags` says; the encodings are the opcode map's. -/
theorem bitTest_holds : Obligations.BitTest := by
  unfold Obligations.BitTest
  refine ⟨hasEncodings_of_eq (by decide), fun i o s ho hm => ?_⟩
  obtain ⟨n, hn⟩ := exec_readEffect (f := bitTest) (xi := false) (s := s) (by rw [hm]; rfl) ho
    (by rw [requestsExtraCycle, hm])
  refine ⟨_, hn, ?_, ?_, ?_,
    ranWithoutStore_status i false _ n (keepsStatus_bitFlags (a := s.a) (m := (load o s).value) rfl)⟩ <;>
    simp [State.flag, getFlag_bitFlags]

/-! ### Increments and decrements -/

theorem toNat_increment (m : Byte) : (m + 1).toNat = (m.toNat + 1) % 256 := BitVec.toNat_add m 1

theorem toNat_decrement (m : Byte) : (m - 1).toNat = (m.toNat + 255) % 256 := by
  rw [BitVec.toNat_sub, Nat.add_comm]
  rfl

/-- R179, R180: a read-modify-write instruction that stores `value` of the byte read, with SetZN of what it stores. -/
theorem exec_modifiesWithZN {value : Byte → Byte} {i : Instr} {o : Operand} {s : State}
    (hf : modifyEffect i.mnemonic = some (fun m _ => value m, fun m t => setZNOf (value m) t))
    (ho : i.operand = some o) :
    ∃ t, exec i s = .next t ∧ SetsZN (value (byteAt o s)) t ∧
      RanStoring i (resolve o s).ea (value (byteAt o s)) [] [.z, .n] s t := by
  obtain ⟨n, hn⟩ := execModify_next o i.baseCycles (fun m _ => value m) (fun m t => setZNOf (value m) t) s
  exact ⟨_, (exec_modify i s _ _ o hf ho).trans hn, setsZN_of_setZN (busWrite_p _ _ _),
    ranStoring_of i _ _ _ _ _ s _ rfl (fun r _ => by cases r <;> rfl) (keepsStatus_setZN rfl)⟩

/-- Settles O22: INC and DEC are `exec_modifiesWithZN`; the encodings are the opcode map's. -/
theorem memoryIncrements : Obligations.MemoryIncrements := by
  unfold Obligations.MemoryIncrements
  refine ⟨hasEncodings_of_eq (by decide), hasEncodings_of_eq (by decide),
    fun i o s ho => ⟨fun hm => ?_, fun hm => ?_⟩⟩
  · obtain ⟨t, ht, hran⟩ := exec_modifiesWithZN (value := (· + 1)) (s := s) (by rw [hm]; rfl) ho
    exact ⟨t, _, ht, toNat_increment _, hran⟩
  · obtain ⟨t, ht, hran⟩ := exec_modifiesWithZN (value := (· - 1)) (s := s) (by rw [hm]; rfl) ho
    exact ⟨t, _, ht, toNat_decrement _, hran⟩

/-- An Implicit instruction that sets register `r` with SetZN, its new value as a number. -/
theorem exec_setsRegister_toNat {r : Reg} {m : Byte} {k : Nat} {f : State → State} {i : Instr} {s : State}
    (hk : m.toNat = k) (hf : impliedEffect i.mnemonic = some f) (ho : i.operand = none)
    (hset : SetsRegister r m s (f s)) :
    ∃ t, exec i s = .next t ∧ (t.reg r).toNat = k ∧ SetsZN (t.reg r) t ∧
      RanWithoutStore i false [r] [.z, .n] s t := by
  obtain ⟨t, ht, hr, hran⟩ := exec_setsRegister hf ho hset
  exact ⟨t, ht, hr ▸ hk, hran⟩

/-- Settles O23: the four are `exec_setsRegister_toNat`; the encodings are the opcode map's. -/
theorem registerIncrements : Obligations.RegisterIncrements := by
  unfold Obligations.RegisterIncrements
  refine ⟨hasEncodings_of_eq (by decide), hasEncodings_of_eq (by decide), hasEncodings_of_eq (by decide),
    hasEncodings_of_eq (by decide), fun s => ⟨?_, ?_, ?_, ?_⟩⟩
  · exact exec_setsRegister_toNat (toNat_increment s.x) (f := fun t => setX (t.x + 1) t) rfl rfl
      (setsRegister_setX (s.x + 1) s.draws s)
  · exact exec_setsRegister_toNat (toNat_increment s.y) (f := fun t => setY (t.y + 1) t) rfl rfl
      (setsRegister_setY (s.y + 1) s.draws s)
  · exact exec_setsRegister_toNat (toNat_decrement s.x) (f := fun t => setX (t.x - 1) t) rfl rfl
      (setsRegister_setX (s.x - 1) s.draws s)
  · exact exec_setsRegister_toNat (toNat_decrement s.y) (f := fun t => setY (t.y - 1) t) rfl rfl
      (setsRegister_setY (s.y - 1) s.draws s)

/-! ### The Decimal flag -/

/-- Where `t` has the video state of `s`, relabelling it with the PPU of `s` changes P alone. -/
theorem relabel_of_keepsVideo (g : Byte → Byte) {s t : State} (h : KeepsVideo s t) :
    relabel g s.ppu t = { t with p := g t.p } := by
  have hppu : s.ppu.withStores t.ppu = t.ppu := by
    unfold KeepsVideo at h
    rw [h]
    rfl
  rw [relabel, hppu]

/-- Settles O18: a change of the Decimal flag is a relabelling that the other instructions do not see
(`exec_relabel`). -/
theorem decimalFlagHasNoEffect : Obligations.DecimalFlagHasNoEffect := by
  unfold Obligations.DecimalFlagHasNoEffect
  intro i s b hi
  obtain ⟨t, ht, heffect⟩ := exec_next i s
  obtain ⟨-, -, -, -, hvideo, -⟩ := effect_keepsHidden heffect
  refine ⟨t, ht, ?_⟩
  calc exec i { s with p := setFlag .d b s.p }
      = relabelResult (setFlag .d b) s.ppu (exec i s) := exec_relabel (unseen_decimal b) i (.inr hi) s
    _ = .next { t with p := setFlag .d b t.p } := by rw [ht, relabelResult, relabel_of_keepsVideo _ hvideo]

end Sys2Proof.Machine

/-! PROOFS. Shifts and rotates (O24): what shifting by one bit through C leaves in the byte and the flags, in numbers;
and the accumulator and memory forms. -/

namespace Sys2Proof.Machine

/-! ### The shifter -/

/-- R202: a left shift leaves bit 0 clear, so rotating C in adds it. -/
theorem shiftResult_rol (m : Byte) (carry : Bool) :
    shiftResult .rol m carry = (m <<< 1) + (BitVec.ofBool carry).setWidth 8 := by
  refine (BitVec.add_eq_or_of_and_eq_zero _ _ ?_).symm
  revert m carry
  decide

/-- R203: a right shift leaves bit 7 clear, so rotating C in adds 128 times it. -/
theorem shiftResult_ror (m : Byte) (carry : Bool) :
    shiftResult .ror m carry = (m >>> 1) + ((BitVec.ofBool carry).setWidth 8 <<< 7) := by
  refine (BitVec.add_eq_or_of_and_eq_zero _ _ ?_).symm
  revert m carry
  decide

/-- R200 to R203: the shifted byte is twice or half the operand, with C rotated in. -/
theorem shiftsTo_shiftResult (k : ShiftKind) (m : Byte) (carry : Bool) : ShiftsTo k m carry (shiftResult k m carry) := by
  cases k with
  | asl => simp [ShiftsTo, shiftResult, Nat.shiftLeft_eq, Nat.mul_comm]
  | lsr => simp [ShiftsTo, shiftResult, Nat.shiftRight_eq_div_pow]
  | rol =>
    simp only [ShiftsTo, shiftResult_rol, BitVec.toNat_add, BitVec.toNat_shiftLeft, BitVec.toNat_setWidth,
      BitVec.toNat_ofBool, Nat.shiftLeft_eq]
    omega
  | ror =>
    have hm := m.isLt
    have hcarry := Bool.toNat_le carry
    simp only [ShiftsTo, shiftResult_ror, BitVec.toNat_add, BitVec.toNat_shiftLeft, BitVec.toNat_ushiftRight,
      BitVec.toNat_setWidth, BitVec.toNat_ofBool, Nat.shiftLeft_eq, Nat.shiftRight_eq_div_pow]
    omega

/-- R200 to R203: the bit shifted out is bit 7 to the left and bit 0 to the right. -/
theorem shiftCarry_iff (k : ShiftKind) (m : Byte) : shiftCarry k m = true ↔ ShiftsOut k m := by
  have hleft : m.getLsbD 7 = true ↔ 128 ≤ m.toNat := msb_iff m
  have hright : m.getLsbD 0 = true ↔ m.toNat % 2 = 1 := by simp [BitVec.getLsbD]
  cases k with
  | asl => exact hleft
  | rol => exact hleft
  | lsr => exact hright
  | ror => exact hright

/-- R200 to R203: a shift changes no flag but C, Z and N. -/
theorem keepsStatus_shiftFlags {k : ShiftKind} {m : Byte} {s t : State} (h : t.p = shiftFlags k m s.p) :
    KeepsStatus [.c, .z, .n] s t := by
  refine ⟨fun f hf => ?_, by rw [State.brk, h, getBreak_shiftFlags]; rfl⟩
  simp only [List.mem_cons, List.not_mem_nil, or_false, not_or] at hf
  simp [State.flag, h, getFlag_shiftFlags, hf]

/-- R200 to R203: C is the bit shifted out. -/
theorem carry_of_shiftFlags {k : ShiftKind} {m p : Byte} {t : State} (h : t.p = shiftFlags k m p) :
    t.flag .c = true ↔ ShiftsOut k m := by
  simp [State.flag, h, getFlag_shiftFlags, shiftCarry_iff]

/-! ### The two forms -/

/-- R200 to R203: the Implicit form shifts A. -/
theorem exec_shiftsA {k : ShiftKind} {i : Instr} {s : State} (hf : impliedEffect i.mnemonic = some (shiftA k))
    (ho : i.operand = none) :
    ∃ t, exec i s = .next t ∧ ShiftsTo k s.a (s.flag .c) t.a ∧ (t.flag .c = true ↔ ShiftsOut k s.a) ∧
      SetsZN t.a t ∧ RanWithoutStore i false [.a] [.c, .z, .n] s t := by
  have hkeeps : KeepsRegs [.a] s (shiftA k s) := keepsRegs_singleton fun
    | .a, h => absurd rfl h
    | .x, _ | .y, _ | .s, _ => rfl
  have hran := ranWithoutStore_of i false _ _ s (shiftA k s) rfl hkeeps (keepsStatus_shiftFlags (k := k) (m := s.a) rfl)
  rw [modeRequests_none i s ho] at hran
  exact ⟨_, exec_implied i s _ hf ho, shiftsTo_shiftResult k _ _, carry_of_shiftFlags rfl, setsZN_of_setZN rfl, hran⟩

/-- R204: the memory forms shift the byte at the effective address. -/
theorem exec_shiftsMemory {k : ShiftKind} {i : Instr} {o : Operand} {s : State}
    (hf : modifyEffect i.mnemonic = some (shiftedByte k, shiftEffect k)) (ho : i.operand = some o) :
    ∃ t v, exec i s = .next t ∧ ShiftsTo k (byteAt o s) (s.flag .c) v ∧
      (t.flag .c = true ↔ ShiftsOut k (byteAt o s)) ∧ SetsZN v t ∧
      RanStoring i (resolve o s).ea v [] [.c, .z, .n] s t := by
  obtain ⟨n, hn⟩ := execModify_next o i.baseCycles (shiftedByte k) (shiftEffect k) s
  exact ⟨_, _, (exec_modify i s _ _ o hf ho).trans hn, shiftsTo_shiftResult k _ _,
    carry_of_shiftFlags (busWrite_p _ _ _), setsZN_of_setZN (busWrite_p _ _ _),
    ranStoring_of i _ _ _ _ _ s _ rfl (fun r _ => by cases r <;> rfl)
      (keepsStatus_shiftFlags (k := k) (m := byteAt o s) rfl)⟩

/-- R200 to R203: the shift instructions' effects, in both forms, are those of their `ShiftKind`. -/
theorem shift_effects {n : Mnemonic} {k : ShiftKind}
    (h : k = .asl ∧ n = .asl ∨ k = .lsr ∧ n = .lsr ∨ k = .rol ∧ n = .rol ∨ k = .ror ∧ n = .ror) :
    impliedEffect n = some (shiftA k) ∧ modifyEffect n = some (shiftedByte k, shiftEffect k) := by
  obtain ⟨rfl, rfl⟩ | ⟨rfl, rfl⟩ | ⟨rfl, rfl⟩ | ⟨rfl, rfl⟩ := h <;> exact ⟨rfl, rfl⟩

/-- Settles O24: the accumulator forms are `exec_shiftsA` and the memory forms `exec_shiftsMemory`; the encodings are
the opcode map's. -/
theorem shiftsAndRotates : Obligations.ShiftsAndRotates := by
  unfold Obligations.ShiftsAndRotates
  refine ⟨hasEncodings_of_eq (by decide), hasEncodings_of_eq (by decide), hasEncodings_of_eq (by decide),
    hasEncodings_of_eq (by decide), fun i k s hk => ?_⟩
  obtain ⟨himplied, hmodify⟩ := shift_effects hk
  exact ⟨exec_shiftsA himplied, fun o => exec_shiftsMemory hmodify⟩

end Sys2Proof.Machine

/-! PROOFS. Jumps, calls, returns and branches (O25 to O27, O29): what loading PC leaves of the state, and the word RTS
pulls as two Bus reads. -/

namespace Sys2Proof.Machine

/-- PC and the countdown are outside every frame. -/
theorem charge_setPc_keeps {regs : List Reg} {flags : List Flag} {s u : State} (base : Nat) (xm xi : Bool) (pc : Word)
    (hu : ChangesRegisters s u) (hr : KeepsRegs regs s u) (hf : KeepsStatus flags s u) :
    let t := charge base xm xi { u with pc := pc }
    Frame regs flags s t ∧ StoresNothing s t := by
  obtain ⟨-, hhidden, hstores⟩ := changesRegisters_keeps hu
  exact ⟨⟨hr, hf, hhidden⟩, hstores⟩

/-! ### Jumps -/

theorem execJump_next (o : Operand) (base : Nat) (s : State) :
    ∃ n, execJump o base s =
      .next (charge base (resolve o s).xm false { { s with draws := n } with pc := (resolve o s).ea }) := by
  obtain ⟨n, hn⟩ := resolve_state o s
  exact ⟨n, by rw [← hn]; rfl⟩

/-- Settles O25: a jump puts the effective address into PC (`execJump_next`) and makes no request for the extra cycle;
the encodings are the opcode map's. -/
theorem jump : Obligations.Jump := by
  unfold Obligations.Jump
  refine ⟨hasEncodings_of_eq (by decide), fun i o s ho hm => ?_⟩
  obtain ⟨n, hn⟩ := execJump_next o i.baseCycles s
  obtain ⟨hframe, hstores⟩ := charge_setPc_keeps (regs := []) (flags := []) (s := s) (u := { s with draws := n })
    i.baseCycles (resolve o s).xm false (resolve o s).ea rfl (fun r _ => by cases r <;> rfl) ⟨fun _ _ => rfl, rfl⟩
  refine ⟨_, (exec_jump i s o hm ho).trans hn, rfl, hframe, hstores, ?_⟩
  rw [Charges, charge_cyclesLeft, Bool.and_false, Bool.and_false]

/-! ### Calls and returns -/

/-- Settles O26: JSR pushes PC - 1 (`pushWord_stores`, `pushWord_sp`, `pushWord_keeps`) and then changes PC alone; the
encodings are the opcode map's. -/
theorem call : Obligations.Call := by
  unfold Obligations.Call
  refine ⟨hasEncodings_of_eq (by decide), fun w s => ?_⟩
  obtain ⟨hregs, hp, -, hhidden⟩ := pushWord_keeps (s.pc - 1) s
  have hstatus : KeepsStatus [] s (pushWord (s.pc - 1) s) := ⟨fun f _ => congrArg (getFlag f) hp, congrArg getBreak hp⟩
  exact ⟨charge 6 false false { pushWord (s.pc - 1) s with pc := w }, exec_call (.jsrAbs w) s (.abs w) rfl rfl, rfl,
    pushWord_sp _ s, pushWord_stores _ s, ⟨hregs, hstatus, hhidden⟩, rfl⟩

/-- A Bus read does not look at S. -/
theorem busRead_setSp (a : Word) (sp : Byte) (s : State) :
    busRead a { s with sp := sp } = ((busRead a s).1, { (busRead a s).2 with sp := sp }) := by
  have hread : State.afterRead { s with sp := sp } a = { s.afterRead a with sp := sp } := by
    have htranslate : State.translate { s with sp := sp } a = s.translate a := rfl
    simp only [State.afterRead, htranslate]
    split <;> rfl
  rw [busRead, hread]
  rfl

/-- R28, R212: the two Bus reads of pulling a word, both within the stack page. -/
theorem pullWord_eq_busRead (s : State) :
    let l := busRead (stackAddress (s.sp + 1)) s
    let h := busRead (stackAddress (s.sp + 2)) l.2
    pullWord s = (joinBytes h.1 l.1, { h.2 with sp := s.sp + 2 }) := by
  have htwo : s.sp + 1 + 1 = s.sp + 2 := BitVec.add_assoc ..
  simp only [pullWord, pull, busRead_setSp, htwo]

/-- Settles O27: RTS pulls a word (`pullWord_eq_busRead`), which changes S and the count of draws (`pullWord_state`),
and puts it plus 1 into PC; the encodings are the opcode map's. -/
theorem return_holds : Obligations.Return := by
  unfold Obligations.Return
  refine ⟨hasEncodings_of_eq (by decide), fun s => ?_⟩
  obtain ⟨n, hn⟩ := pullWord_state s
  have hrun : exec .rts s =
      .next (charge 6 false false { { s with sp := s.sp + 2, draws := n } with pc := (pullWord s).1 + 1 }) := by
    rw [← hn]
    exact exec_implied .rts s returnFromCall rfl rfl
  have hregs : KeepsRegs [.s] s { s with sp := s.sp + 2, draws := n } := keepsRegs_singleton fun
    | .s, h => absurd rfl h
    | .a, _ | .x, _ | .y, _ => rfl
  obtain ⟨hframe, hstores⟩ := charge_setPc_keeps (flags := []) (u := { s with sp := s.sp + 2, draws := n }) 6 false
    false ((pullWord s).1 + 1) rfl hregs ⟨fun _ _ => rfl, rfl⟩
  refine ⟨_, hrun, rfl, hframe, hstores, rfl, ?_⟩
  show (pullWord s).1 + 1 = _
  rw [pullWord_eq_busRead]

/-! ### Branches -/

/-- R221: a branch changes PC alone, and only when it is taken. -/
theorem execBranch_next (f : Flag) (value : Bool) (o : Byte) (base : Nat) (s : State) :
    execBranch f value o base s = .next (charge base (resolve (.rel o) s).xm (s.flag f == value)
      { s with pc := if s.flag f == value then (resolve (.rel o) s).ea else s.pc }) := by
  rw [execBranch]
  cases s.flag f == value <;> rfl

/-- R142: the extra-cycle request of a branch is that its target lies in another page. -/
theorem resolve_rel_xm (o : Byte) (s : State) :
    (resolve (.rel o) s).xm = ((resolve (.rel o) s).ea.toNat / 256 != s.pc.toNat / 256) := by
  rw [Bool.eq_iff_iff, bne_iff_ne]
  exact hiByte_bne_iff _ s.pc

/-- R213 to R221: a branch that is taken when `cond` holds. -/
theorem exec_branches {i : Instr} {o : Byte} {s : State} {f : Flag} {value cond : Bool}
    (hf : branchTest i.mnemonic = some (f, value)) (ho : i.operand = some (.rel o)) (hc : (s.flag f == value) = cond) :
    let target := (resolve (.rel o) s).ea
    ∃ t, exec i s = .next t ∧ t.pc = (if cond then target else s.pc) ∧
      Charges i.baseCycles (target.toNat / 256 != s.pc.toNat / 256) cond t ∧ Frame [] [] s t ∧ StoresNothing s t := by
  obtain ⟨o', ho', hrun⟩ := exec_branch i s f value hf
  cases ho.symm.trans ho'
  rw [execBranch_next, hc, resolve_rel_xm] at hrun
  exact ⟨_, hrun, rfl, rfl, charge_setPc_keeps (u := s) _ _ _ _ rfl (fun _ _ => rfl) ⟨fun _ _ => rfl, rfl⟩⟩

/-- Settles O29: the eight are `exec_branches` with the flag and value of `branchTest`; the target in numbers is
`toNat_add_signExtend`, and the encodings are the opcode map's. -/
theorem branches : Obligations.Branches := by
  unfold Obligations.Branches
  refine ⟨hasEncodings_of_eq (by decide), hasEncodings_of_eq (by decide), hasEncodings_of_eq (by decide),
    hasEncodings_of_eq (by decide), hasEncodings_of_eq (by decide), hasEncodings_of_eq (by decide),
    hasEncodings_of_eq (by decide), hasEncodings_of_eq (by decide), fun o s => ?_⟩
  have onClear : ∀ f, (s.flag f == false) = !s.flag f := fun f => beq_false (s.flag f)
  have onSet : ∀ f, (s.flag f == true) = s.flag f := fun f => beq_true (s.flag f)
  exact ⟨toNat_add_signExtend s.pc o,
    exec_branches (i := .bccRel o) rfl rfl (onClear .c), exec_branches (i := .bcsRel o) rfl rfl (onSet .c),
    exec_branches (i := .bneRel o) rfl rfl (onClear .z), exec_branches (i := .beqRel o) rfl rfl (onSet .z),
    exec_branches (i := .bplRel o) rfl rfl (onClear .n), exec_branches (i := .bmiRel o) rfl rfl (onSet .n),
    exec_branches (i := .bvcRel o) rfl rfl (onClear .v), exec_branches (i := .bvsRel o) rfl rfl (onSet .v)⟩

end Sys2Proof.Machine

/-! PROOFS. The stack, flag and system instructions (O31 to O36, O44): what a pull, a return from an exception and an
exception that is taken leave of the state; and that the return undoes the taking. -/

namespace Sys2Proof.Machine

/-! ### The fields of P -/

/-- R30: writing the Break field changes no flag. -/
theorem status_of_setBreak {b : BitVec 2} {s t : State} (h : t.p = setBreak b s.p) :
    t.brk = b ∧ KeepsFlags [] s t := by
  refine ⟨by rw [State.brk, h, getBreak_setBreak], fun f _ => ?_⟩
  rw [State.flag, h, getFlag_setBreak]
  rfl

/-- R12: writing a flag changes no other field of P. -/
theorem status_of_setFlag {f : Flag} {b : Bool} {s t : State} (h : t.p = setFlag f b s.p) :
    t.flag f = b ∧ KeepsStatus [f] s t := by
  refine ⟨by rw [State.flag, h, getFlag_setFlag, if_pos rfl], fun g hg => ?_, ?_⟩
  · rw [State.flag, h, getFlag_setFlag, if_neg (List.mem_singleton.not.1 hg)]
    rfl
  · rw [State.brk, h, getBreak_setFlag]
    rfl

/-! ### Pushes -/

/-- R230: PHA is a push of A. -/
theorem exec_pha (s : State) :
    ∃ t, exec .pha s = .next t ∧ t.sp = s.sp - 1 ∧ RanStoring .pha (stackAddress s.sp) s.a [.s] [] s t :=
  ⟨charge 3 false false (push s.a s), exec_implied .pha s (fun t => push t.a t) rfl rfl, push_sp s.a s, push_pc s.a s,
    push_frame s.a s, push_storesByte s.a s, rfl⟩

/-- R30, R232: PHP is a push of P after its Break field is written. -/
theorem exec_php (s : State) :
    ∃ t, exec .php s = .next t ∧ t.sp = s.sp - 1 ∧ t.brk = 0b11 ∧ KeepsFlags [] s t ∧ t.pc = s.pc ∧
      StoresByte (stackAddress s.sp) t.p s t ∧ KeepsRegs [.s] s t ∧ KeepsHidden s t ∧ Charges 3 false false t := by
  let p := setBreak 0b11 s.p
  let t := charge 3 false false (push p { s with p := p })
  have hp : t.p = p := push_p p { s with p := p }
  obtain ⟨hregs, -, hhidden⟩ := push_frame p { s with p := p }
  obtain ⟨hbrk, hflags⟩ := status_of_setBreak hp
  exact ⟨t, exec_implied .php s _ rfl rfl, push_sp p { s with p := p }, hbrk, hflags, push_pc p { s with p := p },
    hp ▸ push_after_status p p s, hregs, hhidden, rfl⟩

/-- Settles O31: the two pushes are `exec_pha` and `exec_php`; the encodings are the opcode map's. -/
theorem pushes : Obligations.Pushes := by
  unfold Obligations.Pushes
  exact ⟨hasEncodings_of_eq (by decide), hasEncodings_of_eq (by decide), fun s => ⟨exec_pha s, exec_php s⟩⟩

/-! ### Pulls -/

/-- R28, R64: a pull answers the byte a Bus read gives at the next stack address, and changes S and the count of draws
alone. -/
theorem pull_eq_peek (s : State) :
    ∃ n, pull s = (s.peek (stackAddress (s.sp + 1)), { s with sp := s.sp + 1, draws := n }) := by
  obtain ⟨n, hn⟩ := pull_state s
  exact ⟨n, Prod.ext rfl hn⟩

/-- R231: PLA pulls A, with SetZN. -/
theorem exec_pla (s : State) :
    ∃ t, exec .pla s = .next t ∧ t.sp = s.sp + 1 ∧ t.a = s.peek (stackAddress (s.sp + 1)) ∧ SetsZN t.a t ∧
      RanWithoutStore .pla false [.a, .s] [.z, .n] s t := by
  obtain ⟨n, hn⟩ := pull_eq_peek s
  let v := s.peek (stackAddress (s.sp + 1))
  let u : State := { s with a := v, sp := s.sp + 1, p := setZN v s.p, draws := n }
  have hu : pullA s = u := by rw [pullA, hn]
  have hregs : KeepsRegs [.a, .s] s u := fun
    | .a, h | .s, h => absurd h (by decide)
    | .x, _ | .y, _ => rfl
  have hrun : exec .pla s = .next (charge 4 false false u) := hu ▸ exec_implied .pla s pullA rfl rfl
  exact ⟨_, hrun, rfl, rfl, setsZN_of_setZN rfl,
    ranWithoutStore_of .pla false _ _ s u rfl hregs (keepsStatus_setZN rfl)⟩

/-- R233: PLP pulls the whole of P. -/
theorem exec_plp (s : State) :
    ∃ t, exec .plp s = .next t ∧ t.sp = s.sp + 1 ∧ t.p = s.peek (stackAddress (s.sp + 1)) ∧ t.pc = s.pc ∧
      KeepsRegs [.s] s t ∧ KeepsHidden s t ∧ StoresNothing s t ∧ Charges 4 false false t := by
  obtain ⟨n, hn⟩ := pull_eq_peek s
  let u : State := { s with sp := s.sp + 1, p := s.peek (stackAddress (s.sp + 1)), draws := n }
  have hu : pullStatus s = u := by rw [pullStatus, hn]
  have hregs : KeepsRegs [.s] s u := keepsRegs_singleton fun
    | .s, h => absurd rfl h
    | .a, _ | .x, _ | .y, _ => rfl
  have hrun : exec .plp s = .next (charge 4 false false u) := hu ▸ exec_implied .plp s pullStatus rfl rfl
  obtain ⟨hpc, hhidden, hstores⟩ := changesRegisters_keeps (s := s) (t := u) rfl
  exact ⟨_, hrun, rfl, rfl, hpc, hregs, hhidden, hstores, rfl⟩

/-- Settles O32: the two pulls are `exec_pla` and `exec_plp`; the encodings are the opcode map's. -/
theorem pulls : Obligations.Pulls := by
  unfold Obligations.Pulls
  exact ⟨hasEncodings_of_eq (by decide), hasEncodings_of_eq (by decide), fun s => ⟨exec_pla s, exec_plp s⟩⟩

/-! ### Returning from an exception -/

/-- A Bus read looks at neither S nor P. -/
theorem busRead_setSpP (a : Word) (sp p : Byte) (s : State) :
    busRead a { s with sp := sp, p := p } = ((busRead a s).1, { (busRead a s).2 with sp := sp, p := p }) := by
  have hread : State.afterRead { s with sp := sp, p := p } a = { s.afterRead a with sp := sp, p := p } := by
    have htranslate : State.translate { s with sp := sp, p := p } a = s.translate a := rfl
    simp only [State.afterRead, htranslate]
    split <;> rfl
  rw [busRead, hread]
  rfl

/-- R243: the three Bus reads of RTI, all within the stack page, and what it does with the bytes. -/
theorem returnFromException_eq_busRead (s : State) :
    let p := busRead (stackAddress (s.sp + 1)) s
    let l := busRead (stackAddress (s.sp + 2)) p.2
    let h := busRead (stackAddress (s.sp + 3)) l.2
    returnFromException s = { h.2 with sp := s.sp + 3, p := p.1, pc := joinBytes h.1 l.1 } := by
  have htwo : s.sp + 1 + 1 = s.sp + 2 := BitVec.add_assoc ..
  have hthree : s.sp + 2 + 1 = s.sp + 3 := BitVec.add_assoc ..
  simp only [returnFromException, pullWord, pull, busRead_setSpP, htwo, hthree]

/-- R73, R243: RTI changes S, P, PC and the count of draws alone. -/
theorem returnFromException_state (s : State) :
    let p := busRead (stackAddress (s.sp + 1)) s
    let l := busRead (stackAddress (s.sp + 2)) p.2
    let h := busRead (stackAddress (s.sp + 3)) l.2
    ∃ n, returnFromException s = { s with sp := s.sp + 3, p := p.1, pc := joinBytes h.1 l.1, draws := n } := by
  intro p l h
  obtain ⟨i, hp⟩ : ∃ i, p.2 = { s with draws := i } := afterRead_eq s _
  obtain ⟨j, hl⟩ : ∃ j, l.2 = { p.2 with draws := j } := afterRead_eq p.2 _
  obtain ⟨n, hh⟩ : ∃ n, h.2 = { l.2 with draws := n } := afterRead_eq l.2 _
  refine ⟨n, (returnFromException_eq_busRead s).trans ?_⟩
  show { h.2 with sp := s.sp + 3, p := p.1, pc := joinBytes h.1 l.1 } = _
  rw [hh, hl, hp]

/-- Settles O36: the bytes RTI pulls and all it changes are `returnFromException_state`; the encodings are the opcode
map's. -/
theorem returnFromInterrupt : Obligations.ReturnFromInterrupt := by
  unfold Obligations.ReturnFromInterrupt
  refine ⟨hasEncodings_of_eq (by decide), fun s => ?_⟩
  obtain ⟨n, hn⟩ := returnFromException_state s
  have hrun := exec_implied .rti s returnFromException rfl rfl
  rw [execImplied, hn] at hrun
  let u : State := { s with sp := s.sp + 3, p := (busRead (stackAddress (s.sp + 1)) s).1, draws := n }
  have hregs : KeepsRegs [.s] s u := keepsRegs_singleton fun
    | .s, h => absurd rfl h
    | .a, _ | .x, _ | .y, _ => rfl
  obtain ⟨-, hhidden, hstores⟩ := changesRegisters_keeps (s := s) (t := u) rfl
  exact ⟨_, hrun, rfl, hregs, hstores, hhidden, rfl, rfl, rfl⟩

/-- R64, R243: RTI with the stack outside the PPU window pulls the stored bytes. -/
theorem returnFromException_plain (s : State) (h : ∀ q, s.plain (stackAddress q)) :
    returnFromException s = { s with
      sp := s.sp + 3
      p := s.stored (stackAddress (s.sp + 1))
      pc := joinBytes (s.stored (stackAddress (s.sp + 3))) (s.stored (stackAddress (s.sp + 2))) } := by
  rw [returnFromException_eq_busRead]
  simp only [busRead_plain s _ (h _)]

/-! ### Taking an exception -/

/-- R71: a word read outside the PPU window. -/
theorem readPair_plain (s : State) {l h : Word} (hl : s.plain l) (hh : s.plain h) :
    readPair l h s = (joinBytes (s.stored h) (s.stored l), s) := by
  simp only [readPair, busRead_plain s l hl, busRead_plain s h hh]

/-- R376, R242: what taking an exception pushes and changes, the latch of its kind included. -/
theorem takeException_spec (kind : InterruptKind) (s : State) :
    let t := takeException kind s
    StoresBytes [(stackAddress s.sp, hiByte (kind.returnAddress s.pc)),
      (stackAddress (s.sp - 1), loByte (kind.returnAddress s.pc)),
      (stackAddress (s.sp - 2), setBreak kind.breakPattern s.p)] s t ∧
    t.sp = s.sp - 3 ∧ KeepsRegs [.s] s t ∧ t.p = setFlag .i true (setBreak kind.breakPattern s.p) ∧ KeepsMachine s t ∧
    t.nmiPending = (s.nmiPending && decide (kind ≠ .nmi)) ∧
    t.irqPending = (s.irqPending && decide (kind ≠ .irq)) := by
  obtain ⟨n, ht⟩ := takeException_entered kind s
  obtain ⟨hstores, hsp, hregs, hp, hnmi, hirq, hmachine⟩ := entered_spec kind s
  rw [ht]
  obtain ⟨ka, kx, ky, ksp, kp, -, kmachine, kcells, ktranslate, knmi, kirq⟩ := clearLatch_keeps kind
    { entered kind s with pc := (readPair kind.vector (kind.vector + 1) (entered kind s)).1, draws := n }
  refine ⟨storesBytes_congr _ s (entered kind s) _ hstores ktranslate fun c => (kcells c).trans ?_, ksp.trans hsp,
    keepsRegs_singleton fun r hr => ?_, kp.trans hp, keepsMachine_trans hmachine kmachine, ?_, ?_⟩
  · cases c <;> rfl
  · have hkept := hregs r (List.mem_singleton.not.2 hr)
    cases r with
    | a => exact ka.trans hkept
    | x => exact kx.trans hkept
    | y => exact ky.trans hkept
    | s => exact absurd rfl hr
  · exact hnmi ▸ knmi
  · exact hirq ▸ kirq

/-- R370, R376: PC is the word at the vector, read after the pushes. -/
theorem takeException_pc (kind : InterruptKind) (s : State) (hl : s.plain kind.vector)
    (hh : s.plain (kind.vector + 1)) :
    (takeException kind s).pc =
      joinBytes ((takeException kind s).stored (kind.vector + 1)) ((takeException kind s).stored kind.vector) := by
  obtain ⟨n, ht⟩ := takeException_entered kind s
  obtain ⟨-, -, -, -, -, -, hslots, hbank, -⟩ := entered_spec kind s
  have hplain : ∀ a, s.plain a → (entered kind s).plain a := fun a h i => by
    rw [translate_congr s _ hslots hbank]
    exact h i
  rw [readPair_plain _ (hplain _ hl) (hplain _ hh)] at ht
  obtain ⟨-, -, -, -, -, kpc, -, kcells, ktranslate, -⟩ := clearLatch_keeps kind
    { entered kind s with
      pc := joinBytes ((entered kind s).stored (kind.vector + 1)) ((entered kind s).stored kind.vector)
      draws := n }
  have hstored : ∀ a, (takeException kind s).stored a = (entered kind s).stored a := fun a =>
    ht ▸ (stored_of_cells _ _ a (ktranslate a) kcells).trans (stored_congr _ _ rfl rfl rfl rfl rfl rfl a)
  rw [hstored, hstored, ht]
  exact kpc

/-- Settles O35: what BRK pushes and changes is `takeException_spec`, and where it goes `takeException_pc`; the
encodings are the opcode map's. -/
theorem softwareBreak : Obligations.SoftwareBreak := by
  unfold Obligations.SoftwareBreak
  refine ⟨hasEncodings_of_eq (by decide), fun s => ?_⟩
  obtain ⟨hstores, hsp, hregs, hp, hmachine, hnmi, hirq⟩ := takeException_spec .brk s
  have hpc := takeException_pc .brk s
  have hrun : exec .brk s = .next (charge 7 false false (takeException .brk s)) :=
    exec_implied .brk s (takeException .brk) rfl rfl
  generalize takeException .brk s = t at *
  obtain ⟨hi, hflags, hbrk⟩ := status_of_setFlag (s := { s with p := setBreak 0b11 s.p }) hp
  obtain ⟨hbrk', hkeep⟩ := status_of_setBreak (s := s) (t := { s with p := setBreak 0b11 s.p }) rfl
  exact ⟨_, setBreak 0b11 s.p, hrun, getBreak_setBreak _ _, fun f => getFlag_setBreak f _ _, hstores, hsp, hregs, hi,
    fun f hf => (hflags f hf).trans (hkeep f List.not_mem_nil), hbrk.trans hbrk',
    ⟨hnmi.trans (Bool.and_true _), hirq.trans (Bool.and_true _), hmachine⟩, rfl, hpc⟩

/-- R380: where the stack is memory, RTI right after an exception is taken goes to the return address, with S as before
and the P that was pushed. -/
theorem returnFromException_takeException (kind : InterruptKind) (s : State) (hmem : s.isMemory (stackAddress s.sp)) :
    returnFromException (takeException kind s) =
      { takeException kind s with
        sp := s.sp, p := setBreak kind.breakPattern s.p, pc := kind.returnAddress s.pc } := by
  obtain ⟨⟨hstored, -⟩, hsp, -, -, ⟨hslots, hbank, -⟩, -⟩ := takeException_spec kind s
  generalize takeException kind s = t at *
  have hmem' := fun q => isMemory_stackAddress s s.sp q hmem
  have hplain : ∀ q, t.plain (stackAddress q) := fun q i => by
    rw [translate_congr s t hslots hbank]
    exact (hmem' q).1 i
  have hpushed : ∀ q v, (stackAddress q, v) ∈ _ → t.stored (stackAddress q) = v := fun q v hc =>
    hstored _ hc (stackAddress q) ⟨rfl, (hmem' q).2⟩
  have h1 : t.sp + 1 = s.sp - 2 := by rw [hsp]; bv_omega
  have h2 : t.sp + 2 = s.sp - 1 := by rw [hsp]; bv_omega
  have h3 : t.sp + 3 = s.sp := by rw [hsp, BitVec.sub_add_cancel]
  rw [returnFromException_plain t hplain, h1, h2, h3, hpushed s.sp _ (.head _), hpushed (s.sp - 1) _ (.tail _ (.head _)),
    hpushed (s.sp - 2) _ (.tail _ (.tail _ (.head _))), joinBytes_bytes]

/-- Settles O44: RTI puts back PC, S and the pushed P (`returnFromException_takeException`); the rest is as the
interrupt entry left it (`takeException_spec`). -/
theorem interruptThenReturn : Obligations.InterruptThenReturn := by
  unfold Obligations.InterruptThenReturn
  intro s kind hmem hkind
  obtain ⟨-, -, hregs, -, hmachine, hnmi, hirq⟩ := takeException_spec kind s
  have hkinds : kind.breakPattern = 0b10 ∧ kind.returnAddress s.pc = s.pc := by
    cases kind with
    | brk => exact absurd rfl hkind
    | irq | nmi => exact ⟨rfl, rfl⟩
  have hreturn := returnFromException_takeException kind s hmem
  rw [hkinds.1, hkinds.2] at hreturn
  have hrun := exec_implied .rti (takeException kind s) returnFromException rfl rfl
  rw [execImplied, hreturn] at hrun
  refine ⟨_, hrun, rfl, rfl, fun r _ => ?_, (status_of_setBreak rfl).2, (status_of_setBreak rfl).1, hmachine, hnmi,
    hirq⟩
  cases r with
  | s => rfl
  | a => exact hregs .a (by decide)
  | x => exact hregs .x (by decide)
  | y => exact hregs .y (by decide)

/-! ### Flags -/

/-- R234 to R240: an Implicit instruction that writes one flag. -/
theorem exec_writesFlag {f : Flag} {b : Bool} {i : Instr} {s : State}
    (hf : impliedEffect i.mnemonic = some (writeFlag f b)) (ho : i.operand = none) :
    ∃ t, exec i s = .next t ∧ t.flag f = b ∧ RanWithoutStore i false [] [f] s t := by
  obtain ⟨hflag, hstatus⟩ := status_of_setFlag (f := f) (b := b) (s := s) (t := writeFlag f b s) rfl
  have hran := ranWithoutStore_status i false (setFlag f b s.p) s.draws hstatus
  rw [modeRequests_none i s ho] at hran
  exact ⟨_, exec_implied i s _ hf ho, hflag, hran⟩

/-- Settles O33: the seven are `exec_writesFlag`; the encodings are the opcode map's. -/
theorem flagInstructions : Obligations.FlagInstructions := by
  unfold Obligations.FlagInstructions
  exact ⟨hasEncodings_of_eq (by decide), hasEncodings_of_eq (by decide), hasEncodings_of_eq (by decide),
    hasEncodings_of_eq (by decide), hasEncodings_of_eq (by decide), hasEncodings_of_eq (by decide),
    hasEncodings_of_eq (by decide), fun s => ⟨exec_writesFlag rfl rfl, exec_writesFlag rfl rfl, exec_writesFlag rfl rfl,
    exec_writesFlag rfl rfl, exec_writesFlag rfl rfl, exec_writesFlag rfl rfl, exec_writesFlag rfl rfl⟩⟩

/-! ### NOP and KIL -/

/-- R280: KIL is Implicit in all its encodings. -/
theorem operand_of_kil {i : Instr} (h : i.mnemonic = .kil) : i.operand = none := by
  cases i <;> cases h <;> rfl

/-- Settles O34: an Implicit form has the identity as its effect, and a NOP with an operand only resolves it
(`exec_skip`), which draws for the mode's own reads; the encodings are the opcode map's. -/
theorem noOperations : Obligations.NoOperations := by
  unfold Obligations.NoOperations
  refine ⟨hasEncodings_of_eq (by decide), hasEncodings_of_eq (by decide), fun i s hm => ?_⟩
  have hran := fun n => ranWithoutStore_status (flags := []) i true s.p n (s := s) ⟨fun _ _ => rfl, rfl⟩
  cases ho : i.operand with
  | none =>
    have hid : impliedEffect i.mnemonic = some id := by
      rcases hm with h | h <;> rw [h] <;> rfl
    have hran := hran s.draws
    rw [modeRequests_none i s ho] at hran
    exact ⟨_, exec_implied i s id hid ho, hran, rfl, fun _ h => nomatch h⟩
  | some o =>
    have hnop : i.mnemonic = .nop := hm.resolve_right fun h => nomatch (operand_of_kil h).symm.trans ho
    obtain ⟨n, hn⟩ := resolve_state o s
    have hrun := exec_skip i s o hnop ho
    have hran := hran n
    rw [modeRequests_some i o s ho, ← hn] at hran
    exact ⟨_, hrun, hran, resolve_state_p o s, fun _ h => by cases h; rfl⟩

end Sys2Proof.Machine

/-! PROOFS. The illegal opcodes (O37 to O41): what each does under `stub`, and what its reference operation leaves in
the registers, the flags and the byte at ea. -/

namespace Sys2Proof.Machine

/-! ### Under stub -/

/-- R260, R261: the named illegal mnemonics but KIL depend on ILLEGAL_SEMANTICS; LAX and LAS request the extra cycle. -/
theorem illegalRequest_of_mem :
    ∀ m ∈ [Mnemonic.slo, .rla, .sre, .rra, .sax, .lax, .dcp, .isc, .anc, .alr, .arr, .xaa, .axs, .ahx, .shy, .shx,
      .tas, .las], illegalRequest m = some (decide (m ∈ [Mnemonic.lax, .las])) := by
  decide

/-- R104: none of them is Implicit. -/
theorem operand_of_illegalRequest {i : Instr} {xi : Bool} (h : illegalRequest i.mnemonic = some xi) :
    ∃ o, i.operand = some o := by
  cases i <;> cases h <;> exact ⟨_, rfl⟩

/-- Settles O37: under stub such an instruction only resolves its operand (`exec_stub`), which changes the count of
draws alone (`resolve_state`). -/
theorem illegalUnderStub : Obligations.IllegalUnderStub := by
  unfold Obligations.IllegalUnderStub
  intro i s hs hm
  have hx := illegalRequest_of_mem i.mnemonic hm
  obtain ⟨o, ho⟩ := operand_of_illegalRequest hx
  obtain ⟨n, hn⟩ := resolve_state o s
  have hran := ranWithoutStore_status (flags := []) i (decide (i.mnemonic ∈ [.lax, .las])) s.p n (s := s)
    ⟨fun _ _ => rfl, rfl⟩
  rw [modeRequests_some i o s ho, ← hn] at hran
  exact ⟨_, exec_stub i s _ o hx ho hs, hran, resolve_state_p o s, fun _ h => by cases ho.symm.trans h; rfl⟩

/-! ### One status change after another -/

theorem KeepsStatus.andThen {first second flags : List Flag} {s t u : State} (h : KeepsStatus first s t)
    (k : KeepsStatus second t u) (hsub : ∀ f ∈ first ++ second, f ∈ flags) : KeepsStatus flags s u :=
  ⟨fun f hf => (k.1 f fun hm => hf (hsub f (List.mem_append_right _ hm))).trans
    (h.1 f fun hm => hf (hsub f (List.mem_append_left _ hm))), k.2.trans h.2⟩

/-- R13: Z and N still describe a value after a change of other flags. -/
theorem SetsZN.keep {v : Byte} {flags : List Flag} {t u : State} (h : SetsZN v t) (k : KeepsStatus flags t u)
    (hz : .z ∉ flags) (hn : .n ∉ flags) : SetsZN v u := by
  rw [SetsZN, k.1 .z hz, k.1 .n hn]
  exact h

theorem keepsRegs_a {s u : State} (hx : u.x = s.x) (hy : u.y = s.y) (hsp : u.sp = s.sp) : KeepsRegs [.a] s u :=
  keepsRegs_singleton fun
    | .a, h => absurd rfl h
    | .x, _ => hx
    | .y, _ => hy
    | .s, _ => hsp

/-! ### The combinations -/

/-- R262 to R265, R268, R269: a combination stores `value` of the byte it reads; A and P are as `effect` leaves them. -/
theorem exec_combines {value : Byte → State → Byte} {effect : Byte → State → State} {regs : List Reg}
    {flags : List Flag} {i : Instr} {o : Operand} {s : State}
    (hf : combinationEffect i.mnemonic = some (value, effect)) (ho : i.operand = some o)
    (hs : s.launch.illegal = .reference)
    (hregs : ∀ n, ChangesRegisters s (effect (byteAt o s) { s with draws := n }) ∧
      KeepsRegs regs s (effect (byteAt o s) { s with draws := n }))
    (hflags : ∀ n, KeepsStatus flags s (effect (byteAt o s) { s with draws := n })) :
    ∃ n t, exec i s = .next t ∧ t.a = (effect (byteAt o s) { s with draws := n }).a ∧
      t.p = (effect (byteAt o s) { s with draws := n }).p ∧
      RanStoring i (resolve o s).ea (value (byteAt o s) { s with draws := n }) regs flags s t := by
  obtain ⟨n, hn⟩ := execModify_next o i.baseCycles value effect s
  obtain ⟨hchanges, hkeeps⟩ := hregs n
  exact ⟨n, _, (exec_combination i s value effect o hf ho hs).trans hn, busWrite_a _ _ _, busWrite_p _ _ _,
    ranStoring_of i _ _ _ _ _ s _ hchanges hkeeps (hflags n)⟩

/-- R262 to R264: a shift of the byte at ea whose result is combined into A; Z and N follow A, and C is the bit shifted
out. -/
theorem exec_shiftsThen {k : ShiftKind} {combine : Byte → Byte → Byte} {i : Instr} {o : Operand} {s : State}
    (hf : combinationEffect i.mnemonic = some (shiftedByte k, shiftThen k combine)) (ho : i.operand = some o)
    (hs : s.launch.illegal = .reference) :
    ∃ t v, exec i s = .next t ∧ ShiftsTo k (byteAt o s) (s.flag .c) v ∧ t.a = combine s.a v ∧
      (t.flag .c = true ↔ ShiftsOut k (byteAt o s)) ∧ SetsZN t.a t ∧
      RanStoring i (resolve o s).ea v [.a] [.c, .z, .n] s t := by
  let u := shiftEffect k (byteAt o s) s
  have hshift : KeepsStatus [.c, .z, .n] s u := keepsStatus_shiftFlags rfl
  obtain ⟨n, t, ht, ha, hp, hran⟩ := exec_combines hf ho hs (regs := [.a]) (flags := [.c, .z, .n])
    (fun n => ⟨rfl, keepsRegs_a rfl rfl rfl⟩)
    (fun n => hshift.andThen (keepsStatus_setZN (s := u) rfl) (by decide))
  have hc : t.flag .c = u.flag .c := (keepsStatus_setZN (s := u) hp).1 .c (by decide)
  exact ⟨t, _, ht, shiftsTo_shiftResult k _ _, ha, hc ▸ carry_of_shiftFlags rfl, ha ▸ setsZN_of_setZN hp, hran⟩

theorem Adds.congr {a m : Byte} {carry : Bool} {t u : State} (h : Adds a m carry u) (ha : t.a = u.a) (hp : t.p = u.p) :
    Adds a m carry t := by
  simp only [Adds, SetsZN, State.flag, ha, hp]
  exact h

/-- R203, R265: the Carry a rotate right leaves. -/
theorem flag_shiftEffect_ror (m : Byte) (s : State) :
    (shiftEffect .ror m s).flag .c = decide (m.toNat % 2 = 1) := by
  rw [Bool.eq_iff_iff, decide_eq_true_iff]
  exact carry_of_shiftFlags (k := .ror) (m := m) (p := s.p) rfl

/-- R265: RRA adds the rotated byte with the Carry of the rotate. -/
theorem exec_rra {i : Instr} {o : Operand} {s : State} (hm : i.mnemonic = .rra) (ho : i.operand = some o)
    (hs : s.launch.illegal = .reference) :
    ∃ t v, exec i s = .next t ∧ ShiftsTo .ror (byteAt o s) (s.flag .c) v ∧
      Adds s.a v (decide ((byteAt o s).toNat % 2 = 1)) t ∧
      RanStoring i (resolve o s).ea v [.a] [.c, .z, .v, .n] s t := by
  let u := shiftEffect .ror (byteAt o s) s
  let v := shiftedByte .ror (byteAt o s) s
  have hshift : KeepsStatus [.c, .z, .n] s u := keepsStatus_shiftFlags rfl
  have hadds : Adds s.a v (u.flag .c) (addWithCarry v u) := adds_addWithCarry v u
  obtain ⟨n, t, ht, ha, hp, hran⟩ := exec_combines (i := i) (value := shiftedByte .ror) (effect := rotateThenAdd)
    (by rw [hm]; rfl) ho hs (regs := [.a]) (flags := [.c, .z, .v, .n])
    (fun n => ⟨rfl, keepsRegs_a rfl rfl rfl⟩)
    (fun n => hshift.andThen (keepsStatus_addFlags (s := u) (a := s.a) (m := v) rfl) (by decide))
  rw [flag_shiftEffect_ror] at hadds
  exact ⟨t, v, ht, shiftsTo_shiftResult .ror _ _, hadds.congr ha hp, hran⟩

/-- R268: DCP compares A with the decremented byte. -/
theorem exec_dcp {i : Instr} {o : Operand} {s : State} (hm : i.mnemonic = .dcp) (ho : i.operand = some o)
    (hs : s.launch.illegal = .reference) :
    ∃ t v, exec i s = .next t ∧ v.toNat = ((byteAt o s).toNat + 255) % 256 ∧ Compares s.a v t ∧
      RanStoring i (resolve o s).ea v [] [.c, .z, .n] s t := by
  obtain ⟨n, t, ht, -, hp, hran⟩ := exec_combines (i := i) (value := fun m _ => m - 1)
    (effect := fun m t => compareWith t.a (m - 1) t) (by rw [hm]; rfl) ho hs (regs := []) (flags := [.c, .z, .n])
    (fun n => ⟨rfl, fun r _ => by cases r <;> rfl⟩)
    (fun n => keepsStatus_compareFlags (r := s.a) (m := byteAt o s - 1) rfl)
  exact ⟨t, _, ht, toNat_decrement _, compares_of_compareFlags hp, hran⟩

/-- R269: ISC subtracts the incremented byte, as SBC does. -/
theorem exec_isc {i : Instr} {o : Operand} {s : State} (hm : i.mnemonic = .isc) (ho : i.operand = some o)
    (hs : s.launch.illegal = .reference) :
    ∃ t v, exec i s = .next t ∧ v.toNat = ((byteAt o s).toNat + 1) % 256 ∧ Subtracts s.a v (s.flag .c) t ∧
      RanStoring i (resolve o s).ea v [.a] [.c, .z, .v, .n] s t := by
  obtain ⟨n, t, ht, ha, hp, hran⟩ := exec_combines (i := i) (value := fun m _ => m + 1)
    (effect := fun m t => subtractWithCarry (m + 1) t) (by rw [hm]; rfl) ho hs (regs := [.a])
    (flags := [.c, .z, .v, .n]) (fun n => ⟨rfl, keepsRegs_a rfl rfl rfl⟩)
    (fun n => keepsStatus_addFlags (a := s.a) (m := (byteAt o s + 1) ^^^ 0xFF) rfl)
  have hadds := (adds_addWithCarry ((byteAt o s + 1) ^^^ 0xFF) s).congr ha hp
  exact ⟨t, _, ht, toNat_increment _, subtracts_of_adds_not (BitVec.xor_allOnes ▸ hadds), hran⟩

/-- Settles O38: SLO, RLA and SRE are `exec_shiftsThen`, the others `exec_rra`, `exec_dcp` and `exec_isc`; the encodings
are the opcode map's. -/
theorem illegalCombinations : Obligations.IllegalCombinations := by
  unfold Obligations.IllegalCombinations
  refine ⟨hasEncodings_of_eq (by decide), hasEncodings_of_eq (by decide), hasEncodings_of_eq (by decide),
    hasEncodings_of_eq (by decide), hasEncodings_of_eq (by decide), hasEncodings_of_eq (by decide),
    fun i o s ho hs => ⟨fun hm => ?_, fun hm => ?_, fun hm => ?_, fun hm => exec_rra hm ho hs,
      fun hm => exec_dcp hm ho hs, fun hm => exec_isc hm ho hs⟩⟩
  · exact exec_shiftsThen (by rw [hm]; rfl) ho hs
  · exact exec_shiftsThen (by rw [hm]; rfl) ho hs
  · exact exec_shiftsThen (by rw [hm]; rfl) ho hs

/-! ### SAX, LAX and LAS -/

/-- R266: SAX stores A and X. -/
theorem exec_sax_ran {i : Instr} {o : Operand} {s : State} (hm : i.mnemonic = .sax) (ho : i.operand = some o)
    (hs : s.launch.illegal = .reference) :
    ∃ t, exec i s = .next t ∧ RanStoring i (resolve o s).ea (s.a &&& s.x) [] [] s t := by
  obtain ⟨n, hn⟩ := execStore_next o i.baseCycles (fun t => t.a &&& t.x) s
  exact ⟨_, (exec_sax i s o hm ho hs).trans hn, ranStoring_of i _ _ _ _ _ s { s with draws := n } rfl
    (fun r _ => by cases r <;> rfl) ⟨fun _ _ => rfl, rfl⟩⟩

/-- R267: an instruction that sets A and X to one byte with SetZN, once its cycles are charged. -/
theorem setAX_ran (i : Instr) (xi : Bool) (m : Byte) (n : Nat) (s : State) :
    let t := charge i.baseCycles (modeRequestsExtraCycle i s) xi (setAX m { s with draws := n })
    t.x = t.a ∧ SetsZN t.a t ∧ RanWithoutStore i xi [.a, .x] [.z, .n] s t := by
  have hkeeps : KeepsRegs [.a, .x] s (setAX m { s with draws := n }) := fun
    | .a, h | .x, h => absurd h (by decide)
    | .y, _ | .s, _ => rfl
  exact ⟨rfl, setsZN_of_setZN rfl,
    ranWithoutStore_of i xi _ _ s (setAX m { s with draws := n }) rfl hkeeps (keepsStatus_setZN rfl)⟩

/-- R270 to R274, R279: what a reference operation that stores nothing answers. -/
theorem exec_referenceRead_next {xi : Bool} {f : Byte → State → State} {i : Instr} {o : Operand} {s : State}
    (hf : referenceRead i.mnemonic = some (xi, f)) (ho : i.operand = some o) (hs : s.launch.illegal = .reference) :
    ∃ n, exec i s = .next (charge i.baseCycles (modeRequestsExtraCycle i s) xi
      (f (load o s).value { s with draws := n })) := by
  obtain ⟨n, hn⟩ := execRead_next o i.baseCycles xi f s
  rw [← modeRequests_some i o s ho] at hn
  exact ⟨n, (exec_referenceRead i s xi f o hf ho hs).trans hn⟩

/-- R279: LAS puts the operand byte and S into A, X and S. -/
theorem exec_las {i : Instr} {o : Operand} {s : State} (hm : i.mnemonic = .las) (ho : i.operand = some o)
    (hs : s.launch.illegal = .reference) :
    ∃ t, exec i s = .next t ∧ t.a = (load o s).value &&& s.sp ∧ t.x = t.a ∧ t.sp = t.a ∧ SetsZN t.a t ∧
      RanWithoutStore i true [.a, .x, .s] [.z, .n] s t := by
  obtain ⟨n, hn⟩ := exec_referenceRead_next (i := i) (f := setAXS) (xi := true) (by rw [hm]; rfl) ho hs
  have hkeeps : KeepsRegs [.a, .x, .s] s (setAXS (load o s).value { s with draws := n }) := fun
    | .a, h | .x, h | .s, h => absurd h (by decide)
    | .y, _ => rfl
  exact ⟨_, hn, rfl, rfl, rfl, setsZN_of_setZN rfl,
    ranWithoutStore_of i true _ _ s _ rfl hkeeps (keepsStatus_setZN (v := (load o s).value &&& s.sp) rfl)⟩

/-- Settles O39: SAX is `exec_sax_ran`, LAX sets A and X to the operand byte (`setAX_ran`), LAS is `exec_las`; the
encodings are the opcode map's. -/
theorem illegalLoadsAndStores : Obligations.IllegalLoadsAndStores := by
  unfold Obligations.IllegalLoadsAndStores
  refine ⟨hasEncodings_of_eq (by decide), hasEncodings_of_eq (by decide), hasEncodings_of_eq (by decide),
    fun i o s ho hs => ⟨fun hm => exec_sax_ran hm ho hs, fun hm himm => ?_, fun hm => exec_las hm ho hs⟩⟩
  have hmemory : ∀ b, o ≠ .imm b := by
    rintro b rfl
    exact himm (by rw [formatOf, ho])
  obtain ⟨n, hn⟩ := execRead_next o i.baseCycles true setAX s
  rw [← modeRequests_some i o s ho] at hn
  exact ⟨_, (exec_lax i s o hm ho hmemory hs).trans hn, rfl, setAX_ran i true _ n s⟩

/-! ### The Immediate operations -/

/-- R270: ANC puts A and the operand into A, and N into C. -/
theorem exec_anc {i : Instr} {b : Byte} {s : State} (hm : i.mnemonic = .anc) (ho : i.operand = some (.imm b))
    (hs : s.launch.illegal = .reference) :
    ∃ t, exec i s = .next t ∧ t.a = s.a &&& b ∧ t.flag .c = t.flag .n ∧ SetsZN t.a t ∧
      RanWithoutStore i false [.a] [.c, .z, .n] s t := by
  obtain ⟨n, hn⟩ := exec_referenceRead_next (i := i) (f := andCopyNToC) (xi := false) (by rw [hm]; rfl) ho hs
  let u : State := { s with p := setZN (s.a &&& b) s.p }
  obtain ⟨hc, hstatus⟩ := status_of_setFlag (f := .c) (b := (s.a &&& b).msb) (s := u)
    (t := andCopyNToC b { s with draws := n }) rfl
  have hzn : SetsZN (s.a &&& b) u := setsZN_of_setZN rfl
  have hneg : u.flag .n = (s.a &&& b).msb := getFlag_setZN .n _ _
  exact ⟨_, hn, rfl, hc.trans (hneg.symm.trans (hstatus.1 .n (by decide)).symm),
    hzn.keep hstatus (by decide) (by decide), ranWithoutStore_of i false _ _ s _ rfl (keepsRegs_a rfl rfl rfl)
      ((keepsStatus_setZN (t := u) rfl).andThen hstatus (by decide))⟩

/-- R271: after the and, ALR is LSR of the accumulator. -/
theorem andShiftRight_eq (m : Byte) (s : State) : andShiftRight m s = shiftA .lsr { s with a := s.a &&& m } := rfl

/-- R271: ALR shifts A and the operand right into A. -/
theorem exec_alr {i : Instr} {b : Byte} {s : State} (hm : i.mnemonic = .alr) (ho : i.operand = some (.imm b))
    (hs : s.launch.illegal = .reference) :
    ∃ t, exec i s = .next t ∧ ShiftsTo .lsr (s.a &&& b) false t.a ∧
      (t.flag .c = true ↔ ShiftsOut .lsr (s.a &&& b)) ∧ SetsZN t.a t ∧
      RanWithoutStore i false [.a] [.c, .z, .n] s t := by
  obtain ⟨n, hn⟩ := exec_referenceRead_next (i := i) (f := andShiftRight) (xi := false) (by rw [hm]; rfl) ho hs
  rw [andShiftRight_eq] at hn
  exact ⟨_, hn, shiftsTo_shiftResult .lsr (s.a &&& b) false, carry_of_shiftFlags rfl, setsZN_of_setZN rfl,
    ranWithoutStore_of i false _ _ s _ rfl (keepsRegs_a rfl rfl rfl)
      (keepsStatus_shiftFlags (k := .lsr) (m := s.a &&& b) rfl)⟩

/-- R272: ARR rotates A and the operand right into A; C and V come from bits 6 and 5 of the new A. -/
theorem exec_arr {i : Instr} {b : Byte} {s : State} (hm : i.mnemonic = .arr) (ho : i.operand = some (.imm b))
    (hs : s.launch.illegal = .reference) :
    ∃ t, exec i s = .next t ∧ ShiftsTo .ror (s.a &&& b) (s.flag .c) t.a ∧ t.flag .c = t.a.getLsbD 6 ∧
      t.flag .v = (t.a.getLsbD 6 ^^ t.a.getLsbD 5) ∧ SetsZN t.a t ∧
      RanWithoutStore i false [.a] [.c, .z, .v, .n] s t := by
  obtain ⟨n, hn⟩ := exec_referenceRead_next (i := i) (f := andRotateRight) (xi := false) (by rw [hm]; rfl) ho hs
  let r := arrResult (s.a &&& b) (s.flag .c)
  let u : State := { s with p := setZN r s.p }
  let w : State := { s with p := setFlag .c (r.getLsbD 6) u.p }
  have hu : KeepsStatus [.z, .n] s u := keepsStatus_setZN rfl
  obtain ⟨hc, hw⟩ := status_of_setFlag (f := .c) (b := r.getLsbD 6) (s := u) (t := w) rfl
  obtain ⟨hv, ht⟩ := status_of_setFlag (f := .v) (b := r.getLsbD 6 ^^ r.getLsbD 5) (s := w)
    (t := andRotateRight b { s with draws := n }) rfl
  have hcv : KeepsStatus [.c, .v] u (andRotateRight b { s with draws := n }) := hw.andThen ht (by decide)
  have hzn : SetsZN r u := setsZN_of_setZN rfl
  exact ⟨_, hn, shiftsTo_shiftResult .ror _ _, (ht.1 .c (by decide)).trans hc, hv,
    hzn.keep hcv (by decide) (by decide), ranWithoutStore_of i false _ _ s _ rfl (keepsRegs_a rfl rfl rfl)
      (hu.andThen hcv (by decide))⟩

/-- R186, R274: AXS leaves the flags of a comparison. -/
theorem axsFlags_eq_compareFlags (r m p : Byte) : axsFlags r m p = compareFlags r m p := by
  have hz : (r - m == 0) = (r == m) := by
    rw [Bool.eq_iff_iff, beq_iff_eq, beq_iff_eq, sub_eq_zero]
  rw [axsFlags, setZN, hz, compareFlags]

/-- R274: AXS subtracts the operand from A and X, without a borrow, into X. -/
theorem exec_axs {i : Instr} {b : Byte} {s : State} (hm : i.mnemonic = .axs) (ho : i.operand = some (.imm b))
    (hs : s.launch.illegal = .reference) :
    ∃ t, exec i s = .next t ∧ (t.x.toNat : Int) = (((s.a &&& s.x).toNat : Int) - b.toNat) % 256 ∧
      (t.flag .c = true ↔ b.toNat ≤ (s.a &&& s.x).toNat) ∧ SetsZN t.x t ∧
      RanWithoutStore i false [.x] [.c, .z, .n] s t := by
  obtain ⟨n, hn⟩ := exec_referenceRead_next (i := i) (f := subtractToX) (xi := false) (by rw [hm]; rfl) ho hs
  have hp : (subtractToX b { s with draws := n }).p = compareFlags (s.a &&& s.x) b s.p := axsFlags_eq_compareFlags _ _ _
  have hcompare : Compares (s.a &&& s.x) b (subtractToX b { s with draws := n }) := compares_of_compareFlags hp
  have hkeeps : KeepsRegs [.x] s (subtractToX b { s with draws := n }) := keepsRegs_singleton fun
    | .x, h => absurd rfl h
    | .a, _ | .y, _ | .s, _ => rfl
  have hsub : (((s.a &&& s.x) - b).toNat : Int) = (((s.a &&& s.x).toNat : Int) - b.toNat) % 256 := by
    rw [BitVec.toNat_sub]
    omega
  exact ⟨_, hn, hsub, hcompare.1, setsZN_of_setZN rfl,
    ranWithoutStore_of i false _ _ s _ rfl hkeeps (keepsStatus_compareFlags hp)⟩

/-- Settles O40: the four are `exec_anc`, `exec_alr`, `exec_arr` and `exec_axs`; the encodings are the opcode map's. -/
theorem illegalImmediates : Obligations.IllegalImmediates := by
  unfold Obligations.IllegalImmediates
  exact ⟨hasEncodings_of_eq (by decide), hasEncodings_of_eq (by decide), hasEncodings_of_eq (by decide),
    hasEncodings_of_eq (by decide), fun i b s ho hs => ⟨fun hm => exec_anc hm ho hs, fun hm => exec_alr hm ho hs,
      fun hm => exec_arr hm ho hs, fun hm => exec_axs hm ho hs⟩⟩

/-! ### The unstable opcodes -/

/-- R273, log 12: XAA leaves free values in A, Z and N. -/
theorem exec_xaa {i : Instr} {o : Operand} {s : State} (hm : i.mnemonic = .xaa) (ho : i.operand = some o)
    (hs : s.launch.illegal = .reference) :
    ∃ t, exec i s = .next t ∧ RanWithoutStore i false [.a] [.z, .n] s t := by
  obtain ⟨n, hn⟩ := exec_referenceRead_next (i := i) (f := fun _ t => unstableXaa t) (xi := false) (by rw [hm]; rfl)
    ho hs
  let free := Config.unstableByte (n + 1)
  let u : State := { s with p := setFlag .z (free.getLsbD 0) s.p }
  have hz : KeepsStatus [.z] s u := (status_of_setFlag rfl).2
  have hzn : KeepsStatus [.z, .n] s (unstableXaa { s with draws := n }) :=
    hz.andThen (status_of_setFlag (f := .n) (b := free.getLsbD 1) rfl).2 (by decide)
  exact ⟨_, hn, ranWithoutStore_of i false _ _ s _ rfl (keepsRegs_a rfl rfl rfl) hzn⟩

theorem eq_laxImm {i : Instr} (hm : i.mnemonic = .lax) (himm : formatOf i = .imm) : ∃ b, i = .laxImm b := by
  cases i <;> cases hm <;> cases himm
  exact ⟨_, rfl⟩

/-- R267, log 12: LAX Immediate sets A and X to a free byte. -/
theorem exec_laxImm_next (b : Byte) (s : State) (hs : s.launch.illegal = .reference) :
    ∃ v n, exec (.laxImm b) s = .next (charge 2 false true (setAX v { s with draws := n })) := by
  obtain ⟨n, hn⟩ := load_state (.imm b) s
  exact ⟨Config.unstableByte n, n + 1, by rw [exec_laxImm b s hs, hn]; rfl⟩

/-- R275 to R278, log 12: an unstable store stores a free byte at ea, after `f`. -/
theorem exec_unstableStore_next {f : State → State} {i : Instr} {o : Operand} {s : State}
    (hf : unstableStoreEffect i.mnemonic = some f) (ho : i.operand = some o) (hs : s.launch.illegal = .reference) :
    ∃ n v, exec i s = .next (charge i.baseCycles (resolve o s).xm false
      (busWrite (resolve o s).ea v (f { s with draws := n }))) := by
  obtain ⟨n, hn⟩ := resolve_state o s
  refine ⟨n + 1, Config.unstableByte n, ?_⟩
  rw [exec_unstableStore i s f o hf ho hs, execUnstableStore, hn]

/-- R275 to R277: AHX, SHY and SHX change nothing beside the byte they store. -/
theorem exec_storesFree {i : Instr} {o : Operand} {s : State} (hf : unstableStoreEffect i.mnemonic = some id)
    (ho : i.operand = some o) (hs : s.launch.illegal = .reference) :
    ∃ t v, exec i s = .next t ∧ RanStoring i (resolve o s).ea v [] [] s t ∧ t.p = s.p := by
  obtain ⟨n, v, hn⟩ := exec_unstableStore_next hf ho hs
  exact ⟨_, v, hn, ranStoring_of i _ _ _ _ _ s { s with draws := n } rfl (fun r _ => by cases r <;> rfl)
    ⟨fun _ _ => rfl, rfl⟩, busWrite_p _ _ _⟩

/-- R278, log 12: TAS also puts A and X into S. -/
theorem exec_tas {i : Instr} {o : Operand} {s : State} (hm : i.mnemonic = .tas) (ho : i.operand = some o)
    (hs : s.launch.illegal = .reference) :
    ∃ t v, exec i s = .next t ∧ t.sp = s.a &&& s.x ∧ RanStoring i (resolve o s).ea v [.s] [] s t ∧ t.p = s.p := by
  obtain ⟨n, v, hn⟩ := exec_unstableStore_next (i := i) (f := setStackFromAX) (by rw [hm]; rfl) ho hs
  have hkeeps : KeepsRegs [.s] s (setStackFromAX { s with draws := n }) := keepsRegs_singleton fun
    | .s, h => absurd rfl h
    | .a, _ | .x, _ | .y, _ => rfl
  exact ⟨_, v, hn, busWrite_sp _ _ _, ranStoring_of i _ _ _ _ _ s _ rfl hkeeps ⟨fun _ _ => rfl, rfl⟩,
    busWrite_p _ _ _⟩

/-- Settles O41: XAA is `exec_xaa`, LAX Immediate sets A and X to a free byte (`exec_laxImm_next`, `setAX_ran`), the
stores are `exec_storesFree` and `exec_tas`; the encodings are the opcode map's. -/
theorem illegalUnstable : Obligations.IllegalUnstable := by
  unfold Obligations.IllegalUnstable
  refine ⟨hasEncodings_of_eq (by decide), hasEncodings_of_eq (by decide), hasEncodings_of_eq (by decide),
    hasEncodings_of_eq (by decide), hasEncodings_of_eq (by decide), fun i o s ho hs =>
      ⟨fun hm => exec_xaa hm ho hs, fun hm himm => ?_, fun hm => ?_, fun hm => exec_tas hm ho hs⟩⟩
  · obtain ⟨b, rfl⟩ := eq_laxImm hm himm
    obtain ⟨v, n, hn⟩ := exec_laxImm_next b s hs
    exact ⟨_, hn, setAX_ran (.laxImm b) true v n s⟩
  · have hf : unstableStoreEffect i.mnemonic = some id := by
      rcases hm with h | h | h <;> rw [h] <;> rfl
    exact exec_storesFree hf ho hs

end Sys2Proof.Machine

/-! PROOFS. The devices behind the Bus: the cells of the Memory devices (O49, O50), the PPU's register window (O52), and
how a slot table is filled (O51). -/

namespace Sys2Proof.Machine

/-! ### The cell an address reaches, device by device -/

theorem translate_flat {s : State} {a : Word} (h : s.deviceAt a = some .flat) :
    s.translate a = some (.flat a.toNat) := by
  rw [State.translate, h]

theorem translate_ppu {s : State} {a : Word} (h : s.deviceAt a = some .ppu) :
    s.translate a = some (.reg (a.extractLsb' 0 3)) := by
  rw [State.translate, h]

/-- R304: the banked device's addresses below 0x2000 are the RAM, mirrored. -/
theorem translate_banked_ram {s : State} {a : Word} (h : s.deviceAt a = some .banked) (ha : a.toNat < 0x2000) :
    s.translate a = some (.ram (a.toNat % 0x800)) := by
  simp only [State.translate, h, bankedCell, if_pos ((top_clear_iff a).2 ha), toNat_ramIndex]

/-- R305: the low bank answers where bit 14 is clear, and, with no high bank of its own, everywhere above the RAM. -/
theorem translate_banked_low {s : State} {a : Word} (h : s.deviceAt a = some .banked) (ha : 0x2000 ≤ a.toNat)
    (hlow : a.getLsbD 14 = false ∨ s.bankHi = .mirrored) : s.translate a = some (.bankLo (a.toNat % 0x4000)) := by
  have hram : ¬ a &&& 0xE000 = 0 := fun hc => Nat.not_lt.2 ha ((top_clear_iff a).1 hc)
  simp only [State.translate, h, bankedCell, if_neg hram, toNat_bankIndex]
  by_cases h14 : a.getLsbD 14 = false
  · rw [if_pos ((bit14_clear_iff a).2 h14)]
  · simp only [hlow.resolve_left h14, ite_self]

/-- R305: an independent high bank answers where bit 14 is set. -/
theorem translate_banked_high {s : State} {a : Word} {m : Memory} (h : s.deviceAt a = some .banked)
    (ha : 0x2000 ≤ a.toNat) (h14 : a.getLsbD 14 = true) (hown : s.bankHi = .own m) :
    s.translate a = some (.bankHi (a.toNat % 0x4000)) := by
  have hram : ¬ a &&& 0xE000 = 0 := fun hc => Nat.not_lt.2 ha ((top_clear_iff a).1 hc)
  have hhigh : ¬ a &&& 0x4000 = 0 := fun hc => Bool.false_ne_true (((bit14_clear_iff a).1 hc).symm.trans h14)
  simp only [State.translate, h, bankedCell, if_neg hram, if_neg hhigh, hown, toNat_bankIndex]

/-! ### Reads and writes by cell -/

/-- R65: a write reaches the address's cell. -/
theorem busWrite_of_translate {s : State} {a : Word} {c : Cell} (h : s.translate a = some c) (v : Byte) :
    busWrite a v s = s.writeCell v c := by
  rw [busWrite, h]

/-- R64: a read of a Memory device answers the byte of the address's cell, and changes nothing. -/
theorem busRead_of_translate {s : State} {a : Word} {c : Cell} (h : s.translate a = some c) (hc : ∀ i, c ≠ .reg i) :
    busRead a s = (s.readCell c, s) := by
  have hplain : s.plain a := fun i hi => hc i (Option.some.inj (h.symm.trans hi))
  rw [busRead_plain s a hplain, State.stored, h]

/-- R77 (1): in the Memory devices, a read after a write answers the written byte at the addresses of the written cell,
and the byte there was at every other. -/
theorem busRead_busWrite {s : State} {b : Word} (hb : s.isMemory b) (a : Word) (v : Byte) :
    (busRead b (busWrite a v s)).1 = if s.translate b = s.translate a then v else (busRead b s).1 := by
  obtain ⟨hplain, hmapped⟩ := hb
  have hplain' : (busWrite a v s).plain b := fun i => by
    rw [translate_busWrite]
    exact hplain i
  obtain ⟨hsame, hother⟩ := stored_busWrite a b v s
  rw [busRead_plain _ b hplain, busRead_plain _ b hplain']
  split
  · rename_i he
    exact hsame ⟨he, he ▸ hmapped⟩
  · rename_i hne
    exact hother fun hc => hne hc.1

theorem busRead_busWrite_same {s : State} {a b : Word} (hb : s.isMemory b) (h : s.translate b = s.translate a)
    (v : Byte) : (busRead b (busWrite a v s)).1 = v := by
  rw [busRead_busWrite hb, if_pos h]

theorem bankedCell_ne_flat (high : HighBank) (a : Word) (k : Nat) : bankedCell high a ≠ .flat k := by
  unfold bankedCell
  split
  · nofun
  · split
    · nofun
    · split <;> nofun

/-- R36, R303: only an address of the flat device reaches its store. -/
theorem translate_ne_flat {s : State} {a : Word} (h : s.deviceAt a ≠ some .flat) (k : Nat) :
    s.translate a ≠ some (.flat k) := by
  unfold State.translate
  split
  · nofun
  · contradiction
  · exact fun hk => bankedCell_ne_flat s.bankHi a k (Option.some.inj hk)
  · nofun

/-- R306: a write that reaches a cell of another store leaves the flat store. -/
theorem writeCell_flat_store (s : State) (v : Byte) (c : Cell) (h : ∀ k, c ≠ .flat k) :
    (s.writeCell v c).flat = s.flat := by
  cases c with
  | flat k => exact absurd rfl (h k)
  | bankHi k =>
    simp only [State.writeCell]
    split <;> rfl
  | ram k | bankLo k | reg i => rfl

theorem busWrite_flat_store {s : State} {a : Word} (h : s.deviceAt a ≠ some .flat) (v : Byte) :
    (busWrite a v s).flat = s.flat := by
  unfold busWrite
  cases ht : s.translate a with
  | none => rfl
  | some c => exact writeCell_flat_store s v c fun k hc => translate_ne_flat h k (hc ▸ ht)

/-- R305: a write above the RAM leaves it. -/
theorem busWrite_banked_ram {s : State} {a : Word} (h : s.deviceAt a = some .banked) (ha : 0x2000 ≤ a.toNat)
    (v : Byte) : (busWrite a v s).ram = s.ram := by
  by_cases hlow : a.getLsbD 14 = false ∨ s.bankHi = .mirrored
  · rw [busWrite_of_translate (translate_banked_low h ha hlow)]
    rfl
  · obtain ⟨h14, hhi⟩ := not_or.1 hlow
    cases hown : s.bankHi with
    | mirrored => exact absurd hown hhi
    | own m =>
      rw [busWrite_of_translate (translate_banked_high h ha (Bool.not_eq_false _ ▸ h14) hown), State.writeCell, hown]

/-- Settles O49: the device gives an address's cell (`translate_flat`, `translate_banked_ram`), and reads and writes go
by cell (`busRead_busWrite`). -/
theorem memoryDeviceCells : Obligations.MemoryDeviceCells := by
  unfold Obligations.MemoryDeviceCells
  intro s a v
  refine ⟨fun ha => ?_, fun ha => ⟨busWrite_flat_store ha v, translate_ne_flat ha⟩,
    fun ha => ⟨fun hlt => ?_, fun hge => busWrite_banked_ram ha hge v⟩⟩
  · have ht := translate_flat ha
    refine ⟨busRead_of_translate ht (fun _ => Cell.noConfusion), ?_, fun k => ?_, fun b hb hne => ?_⟩
    · rw [busWrite_of_translate ht]
      rfl
    · rw [busWrite_of_translate ht]
      exact Memory.get_set s.flat a.toNat k v
    · have hcells : s.translate b ≠ s.translate a := by
        rw [translate_flat hb, ht]
        simpa using fun h => hne (BitVec.eq_of_toNat_eq h)
      exact ⟨hcells, by rw [busRead_busWrite ((isMemory_iff s b).2 (.inl hb)), if_neg hcells]⟩
  · have ht := translate_banked_ram ha hlt
    refine ⟨?_, ?_, fun b hb hlt' => ?_⟩
    · rw [busRead_of_translate ht (fun _ => Cell.noConfusion)]
      rfl
    · rw [busWrite_of_translate ht]
      exact Memory.get_set_same ..
    · rw [busRead_busWrite ((isMemory_iff s b).2 (.inr hb)), translate_banked_ram hb hlt', ht]
      simp only [Option.some.injEq, Cell.ram.injEq]

/-- R307: with no high bank of its own, addresses above the RAM with the same low 14 bits are one cell. -/
theorem translate_banked_repeat {s : State} {a b : Word} (hm : s.bankHi = .mirrored) (ha : s.deviceAt a = some .banked)
    (hb : s.deviceAt b = some .banked) (hage : 0x2000 ≤ a.toNat) (hbge : 0x2000 ≤ b.toNat)
    (hk : b.toNat % 0x4000 = a.toNat % 0x4000) : s.translate b = s.translate a := by
  rw [translate_banked_low hb hbge (.inr hm), translate_banked_low ha hage (.inr hm), hk]

/-- Settles O50: the cell is the low bank's (`translate_banked_low`) or the independent high bank's
(`translate_banked_high`), and a read after a write goes by cell (`busRead_busWrite`). -/
theorem romBanks : Obligations.RomBanks := by
  unfold Obligations.RomBanks
  intro s a v ha hge
  have hmem : ∀ b, s.deviceAt b = some .banked → s.isMemory b := fun b hb => (isMemory_iff s b).2 (.inr hb)
  refine ⟨fun hlow => ?_, fun m h14 hown => ?_, busRead_busWrite_same (hmem a ha) rfl v, fun hm b hb hbge hk => ?_⟩
  · have ht := translate_banked_low ha hge hlow
    rw [busRead_of_translate ht (fun _ => Cell.noConfusion), busWrite_of_translate ht]
    exact ⟨rfl, rfl⟩
  · have ht := translate_banked_high ha hge h14 hown
    rw [busRead_of_translate ht (fun _ => Cell.noConfusion), busWrite_of_translate ht]
    simp only [State.readCell, State.writeCell, hown, and_self]
  · have hcell := translate_banked_repeat hm ha hb hge hbge hk
    refine ⟨?_, busRead_busWrite_same (hmem b hb) hcell v⟩
    have ht := translate_banked_low ha hge (.inr hm)
    rw [busRead_of_translate (hcell.trans ht) (fun _ => Cell.noConfusion),
      busRead_of_translate ht (fun _ => Cell.noConfusion)]

/-! ### The PPU's register window -/

/-- Settles O52: every address of the window is a register (`translate_ppu`), numbered by its low 3 bits; a read changes
the count of draws alone (`afterRead_eq`). -/
theorem ppuRegisterWindow : Obligations.PpuRegisterWindow := by
  unfold Obligations.PpuRegisterWindow
  intro s a v ha
  have hregs : ∀ j : BitVec 3, (busWrite a v s).ppu.reg.get j.toFin =
      if j = a.extractLsb' 0 3 then v else s.ppu.reg.get j.toFin := fun j => by
    rw [busWrite_of_translate (translate_ppu ha)]
    exact registers_get_set s.ppu.reg (a.extractLsb' 0 3) j v
  refine ⟨(hregs _).trans (if_pos rfl), fun k hk => ?_, ?_, afterRead_eq s a, fun b hb hlow => ?_⟩
  · have hne : BitVec.ofFin k ≠ a.extractLsb' 0 3 := fun h =>
      hk ((congrArg BitVec.toNat h).trans (toNat_registerIndex a))
    exact (hregs (BitVec.ofFin k)).trans (if_neg hne)
  · rw [busWrite_of_translate (translate_ppu ha)]
    rfl
  · have hindex : b.extractLsb' 0 3 = a.extractLsb' 0 3 :=
      BitVec.eq_of_toNat_eq (by rw [toNat_registerIndex, toNat_registerIndex, hlow])
    rw [translate_ppu ha, translate_ppu hb, hindex]

/-! ### Registration -/

/-- R300: the slots of a range, by the high nibble of its start. -/
theorem registeredSlots_iff (start : Word) (count k : Nat) :
    registeredSlots start count k = true ↔ start.toNat / 4096 ≤ k ∧ k < start.toNat / 4096 + count := by
  simp only [registeredSlots, toNat_slotOf, Bool.and_eq_true, decide_eq_true_eq]

theorem registrationFails_iff (start : Word) (count : Nat) (slots : Vector (Option Device) 16) :
    registrationFails start count slots = true ↔
      count < 1 ∨ 16 < count ∨ 16 < start.toNat / 4096 + count ∨
        ∃ k : Fin 16, start.toNat / 4096 ≤ k.val ∧ k.val < start.toNat / 4096 + count ∧ slots.get k ≠ none := by
  simp only [registrationFails, Bool.or_eq_true, decide_eq_true_eq, List.any_eq_true, List.mem_finRange, true_and,
    Bool.and_eq_true, registeredSlots_iff, toNat_slotOf, Option.isSome_iff_ne_none, or_assoc, and_assoc, gt_iff_lt]

theorem registerDevice_eq_none_iff (d : Device) (start : Word) (count : Nat) (slots : Vector (Option Device) 16) :
    registerDevice d start count slots = none ↔ registrationFails start count slots = true := by
  cases h : registrationFails start count slots <;> simp [registerDevice, h]

/-- R300: a registration that succeeds binds the slots of its range. -/
theorem registerDevice_get {d : Device} {start : Word} {count : Nat} {slots after : Vector (Option Device) 16}
    (h : registerDevice d start count slots = some after) (k : Fin 16) :
    after.get k = if registeredSlots start count k.val then some d else slots.get k := by
  unfold registerDevice at h
  split at h
  · cases h
  · cases h
    exact Vector.getElem_ofFn k.isLt

/-- Settles O51: when the call fails is `registrationFails_iff`, what it binds `registerDevice_get`. -/
theorem registration : Obligations.Registration := by
  unfold Obligations.Registration
  intro d start count slots first
  refine ⟨(registerDevice_eq_none_iff ..).trans (registrationFails_iff ..), fun after h k => ?_⟩
  simp only [registerDevice_get h k, registeredSlots_iff, first]

end Sys2Proof.Machine

/-! PROOFS. The PPU: its frame timing (O54), the cells of its video memory (O56), and its decode functions (O57). -/

namespace Sys2Proof.Machine

/-! ### Frame timing -/

/-- R343: the counters of `v` are those `n` clocks after `u`, at the start of a frame: a line has 262 clocks and a frame
341 lines. -/
def CountersAfter (n : Nat) (u v : Ppu) : Prop :=
  v.cycle = n % 262 ∧ v.scanline = ((n / 262 % 341 : Nat) : Int) - 1 ∧
  v.active.val = (u.active.val + n / 262 / 341) % 2

/-- R340: one more clock takes the counters one further, and answers whether a frame's lines are now complete. -/
theorem countersAfter_clock {n : Nat} {u v : Ppu} (size : Nat) (h : CountersAfter n u v) :
    CountersAfter (n + 1) u (v.clock size).1 ∧
      ((v.clock size).2 = true ↔ (n + 1) % 262 = 0 ∧ (n + 1) / 262 % 341 = 0) := by
  obtain ⟨hcycle, hline, hactive⟩ := h
  obtain ⟨hframe, hwrap, hcount⟩ := clock_cases v size
  have hflip : ∀ a : Fin 2, (1 - a).val = (a.val + 1) % 2 := by decide
  unfold CountersAfter
  by_cases hc : v.cycle + 1 = 262
  · have hnext : (n + 1) / 262 = n / 262 + 1 ∧ (n + 1) % 262 = 0 := by omega
    rw [hnext.1, hnext.2]
    by_cases hl : v.scanline + 1 = 340
    · obtain ⟨h1, h2, h3, h4⟩ := hframe hc hl
      have hlines : (n / 262 + 1) / 341 = n / 262 / 341 + 1 ∧ (n / 262 + 1) % 341 = 0 := by omega
      rw [h1, h2, h3, h4, hlines.1, hlines.2, hflip, hactive]
      exact ⟨⟨rfl, rfl, Nat.mod_add_mod ..⟩, iff_of_true rfl ⟨rfl, rfl⟩⟩
    · obtain ⟨h1, h2, h3, h4⟩ := hwrap hc hl
      rw [h1, h2, h3, h4]
      refine ⟨⟨rfl, ?_, ?_⟩, iff_of_false Bool.false_ne_true ?_⟩ <;> omega
  · obtain ⟨h1, h2, h3, h4⟩ := hcount hc
    have hnext : (n + 1) / 262 = n / 262 ∧ (n + 1) % 262 = n % 262 + 1 := by omega
    rw [h1, h2, h3, h4, hnext.1, hnext.2]
    exact ⟨⟨by rw [hcycle], hline, hactive⟩, iff_of_false Bool.false_ne_true fun h => Nat.succ_ne_zero _ h.1⟩

theorem countersAfter_afterClocks {u : Ppu} (size n : Nat) (hc : u.cycle = 0) (hl : u.scanline = -1) :
    CountersAfter n u (Ppu.afterClocks size n u) := by
  induction n with
  | zero => exact ⟨hc, hl, (Nat.mod_eq_of_lt u.active.isLt).symm⟩
  | succ n ih =>
    rw [afterClocks_succ]
    exact (countersAfter_clock size ih).1

/-- R343: a frame is 262 x 341 clocks. -/
theorem frameClocks (n : Nat) :
    n / 89342 = n / 262 / 341 ∧ (n % 89342 = 0 ↔ n % 262 = 0 ∧ n / 262 % 341 = 0) := by
  have hdiv : n / (262 * 341) = n / 262 / 341 := (Nat.div_div_eq_div_mul n 262 341).symm
  have hmod : n % (262 * 341) = n % 262 + 262 * (n / 262 % 341) := Nat.mod_mul
  omega

/-- Settles O54: by induction on the clocks (`countersAfter_afterClocks`), one clock being `countersAfter_clock`. -/
theorem frameTiming : Obligations.FrameTiming := by
  unfold Obligations.FrameTiming
  intro u size n hc hl v
  have h : CountersAfter n u v := countersAfter_afterClocks size n hc hl
  rw [(frameClocks n).1, (frameClocks (n + 1)).2]
  have hdone := (countersAfter_clock size h).2
  obtain ⟨hcycle, hline, hactive⟩ := h
  exact ⟨hcycle, hline, hactive, hdone⟩

/-! ### The video address space -/

/-- R336, R337: the mirroring merges two logical nametables. -/
def TablesMerged (m : Mirroring) (j k : Nat) : Prop :=
  match m with
  | .vertical => j % 2 = k % 2
  | .horizontal => j / 2 = k / 2
  | .single => True
  | .four => j = k

theorem physicalTable_eq_iff (m : Mirroring) (j k : BitVec 2) :
    physicalTable m j = physicalTable m k ↔ TablesMerged m j.toNat k.toNat := by
  cases m with
  | single => exact iff_of_true rfl trivial
  | vertical | horizontal | four => exact Iff.rfl

theorem toNat_logicalTable (v : BitVec 14) : (v.extractLsb' 10 2).toNat = v.toNat / 1024 % 4 := by
  simp [BitVec.extractLsb'_toNat, Nat.shiftRight_eq_div_pow]

/-- R337, R339: a nametable cell is the physical table and the offset in it. -/
theorem nametableCell_eq_iff (m : Mirroring) (v w : BitVec 14) :
    physicalTable m (v.extractLsb' 10 2) * 1024 + v.toNat % 1024 =
        physicalTable m (w.extractLsb' 10 2) * 1024 + w.toNat % 1024 ↔
      v.toNat % 1024 = w.toNat % 1024 ∧ TablesMerged m (v.toNat / 1024 % 4) (w.toNat / 1024 % 4) := by
  rw [← toNat_logicalTable, ← toNat_logicalTable, ← physicalTable_eq_iff]
  omega

/-- R338: the palette entry of an address, with the four repeated entries resolved. -/
def paletteEntry (n : Nat) : Nat := if n % 32 ∈ [0x10, 0x14, 0x18, 0x1C] then n % 32 - 0x10 else n % 32

theorem paletteIndex_eq (v : BitVec 14) : paletteIndex v = paletteEntry v.toNat := by
  simp only [paletteIndex, paletteEntry, List.mem_cons, List.not_mem_nil, or_false]

/-- R335 to R339: two video addresses are one cell. -/
def SameVideoCell (m : Mirroring) (v w : Nat) : Prop :=
  v < 0x2000 ∧ v = w ∨
  v / 4096 = 2 ∧ w / 4096 = 2 ∧ v % 1024 = w % 1024 ∧ TablesMerged m (v / 1024 % 4) (w / 1024 % 4) ∨
  v / 4096 = 3 ∧ w / 4096 = 3 ∧ paletteEntry v = paletteEntry w

theorem videoCell_nametable (m : Mirroring) {v : BitVec 14} (h : v.toNat / 4096 = 2) :
    videoCell m v = .nt (physicalTable m (v.extractLsb' 10 2) * 1024 + v.toNat % 1024) := by
  rcases videoCell_cases m v with ⟨r, -⟩ | ⟨-, c⟩ | ⟨r, -⟩
  · omega
  · exact c
  · omega

theorem videoCell_palette (m : Mirroring) {v : BitVec 14} (h : v.toNat / 4096 = 3) :
    videoCell m v = .pal (paletteEntry v.toNat) := by
  rcases videoCell_cases m v with ⟨r, -⟩ | ⟨r, -⟩ | ⟨-, c⟩
  · omega
  · omega
  · rw [c, paletteIndex_eq]

/-- R335 to R339: addresses of two regions are two cells; inside a region the cells' indexes decide. -/
theorem videoCell_eq_iff (m : Mirroring) (v w : BitVec 14) :
    videoCell m v = videoCell m w ↔ SameVideoCell m v.toNat w.toNat := by
  constructor
  · intro h
    rcases videoCell_cases m v with ⟨rv, cv⟩ | ⟨rv, cv⟩ | ⟨rv, cv⟩
    · rcases videoCell_cases m w with ⟨-, cw⟩ | ⟨-, cw⟩ | ⟨-, cw⟩ <;> rw [cv, cw] at h
      · exact .inl ⟨rv, VideoCell.chr.inj h⟩
      · nomatch h
      · nomatch h
    · rcases videoCell_cases m w with ⟨-, cw⟩ | ⟨rw', cw⟩ | ⟨-, cw⟩ <;> rw [cv, cw] at h
      · nomatch h
      · exact .inr (.inl ⟨rv, rw', (nametableCell_eq_iff m v w).1 (VideoCell.nt.inj h)⟩)
      · nomatch h
    · rcases videoCell_cases m w with ⟨-, cw⟩ | ⟨-, cw⟩ | ⟨rw', cw⟩ <;> rw [cv, cw] at h
      · nomatch h
      · nomatch h
      · rw [paletteIndex_eq, paletteIndex_eq] at h
        exact .inr (.inr ⟨rv, rw', VideoCell.pal.inj h⟩)
  · rintro (⟨-, hvw⟩ | ⟨rv, rw', hcell⟩ | ⟨rv, rw', hentry⟩)
    · rw [BitVec.eq_of_toNat_eq hvw]
    · rw [videoCell_nametable m rv, videoCell_nametable m rw', (nametableCell_eq_iff m v w).2 hcell]
    · rw [videoCell_palette m rv, videoCell_palette m rw', hentry]

theorem videoAddress_ok {v : Word} (h : v.toNat < 0x4000) : videoAddress v = .ok (v.setWidth 14) := if_pos h

theorem videoAddress_error {v : Word} (h : 0x4000 ≤ v.toNat) : videoAddress v = .error (.videoAddress v) :=
  if_neg (Nat.not_lt.2 h)

theorem videoRead_ok {v : Word} (h : v.toNat < 0x4000) (s : State) :
    videoRead v s = .ok (s.ppu.readVideoCell (videoCell s.launch.mirroring (v.setWidth 14))) := by
  rw [videoRead, videoAddress_ok h]

theorem videoWrite_ok {v : Word} (h : v.toNat < 0x4000) (b : Byte) (s : State) :
    videoWrite v b s =
      .ok { s with ppu := s.ppu.writeVideoCell b (videoCell s.launch.mirroring (v.setWidth 14)) } := by
  rw [videoWrite, videoAddress_ok h]

theorem toNat_videoAddress {v : Word} (h : v.toNat < 0x4000) : (v.setWidth 14).toNat = v.toNat := by
  rw [BitVec.toNat_setWidth, Nat.mod_eq_of_lt h]

/-- R335: a video write is read back at the video addresses of its cell, and no other read changes. -/
theorem videoRead_write {v w : Word} (hv : v.toNat < 0x4000) (hw : w.toNat < 0x4000) (b : Byte) (s : State) :
    let t := { s with ppu := s.ppu.writeVideoCell b (videoCell s.launch.mirroring (v.setWidth 14)) }
    (SameVideoCell s.launch.mirroring v.toNat w.toNat → videoRead w t = .ok b) ∧
    (¬ SameVideoCell s.launch.mirroring v.toNat w.toNat → videoRead w t = videoRead w s) := by
  intro t
  rw [← toNat_videoAddress hv, ← toNat_videoAddress hw, ← videoCell_eq_iff, videoRead_ok hw, videoRead_ok hw,
    readVideoCell_writeVideoCell]
  exact ⟨fun h => by rw [if_pos h], fun h => by rw [if_neg h]⟩

/-- Settles O56: below 0x4000 a write is read back by cell (`videoRead_write`), and two addresses are one cell as
`videoCell_eq_iff` says; above, both calls are refused (`videoAddress_error`). -/
theorem videoMemory : Obligations.VideoMemory := by
  unfold Obligations.VideoMemory
  intro s v b
  refine ⟨fun h => ?_, fun hv => ⟨_, videoWrite_ok hv b s, rfl, fun w hw => ?_⟩⟩
  · rw [videoRead, videoWrite, videoAddress_error h]
    exact ⟨rfl, rfl⟩
  · have hread := videoRead_write hv hw b s
    simp only [SameVideoCell, BitVec.toNat_inj] at hread
    exact hread

/-! ### Tiles and colours -/

/-- R347: two bits, the high one first, as a number. -/
theorem toNat_bitPair (hi lo : Bool) : (BitVec.ofBool hi ++ BitVec.ofBool lo).toNat = 2 * hi.toNat + lo.toNat := by
  revert hi lo
  decide

/-- R348: the palette's video address as a number. -/
theorem setWidth_paletteAddress (palette : BitVec 3) (index : BitVec 2) :
    (BitVec.ofNat 16 (0x3F00 + 4 * palette.toNat + index.toNat)).setWidth 14 =
      (0x3F00 + (palette ++ index).setWidth 14 : BitVec 14) := by
  revert palette index
  decide

/-- R346: row `y` and column `x` of the pattern table image. -/
theorem getPatternTable_getElem? (palette : BitVec 3) (leftHalf : Bool) (s : State) {x y : Nat} (hx : x < 128)
    (hy : y < 128) :
    ((getPatternTable palette leftHalf s)[y]?.bind fun row => row[x]?) =
      some (patternPixel palette leftHalf s (BitVec.ofNat 7 x) (BitVec.ofNat 7 y)) := by
  simp [getPatternTable, hx, hy]

/-- R346: the tile that a row or column below 128 stands in. -/
theorem toNat_tileCoordinate {x : Nat} (hx : x < 128) : ((BitVec.ofNat 7 x).extractLsb' 3 4).toNat = x / 8 := by
  rw [BitVec.extractLsb'_toNat, BitVec.toNat_ofNat, Nat.shiftRight_eq_div_pow]
  omega

/-- R346: the tiles are numbered row by row, 16 in a row. -/
theorem tileNumber {x y : Nat} (hx : x < 128) (hy : y < 128) :
    ((BitVec.ofNat 7 y).extractLsb' 3 4 ++ (BitVec.ofNat 7 x).extractLsb' 3 4 : BitVec 8) =
      BitVec.ofNat 8 (y / 8 * 16 + x / 8) := by
  apply BitVec.eq_of_toNat_eq
  have := Nat.two_pow_add_eq_or_of_lt (i := 4) (show x / 8 < 2 ^ 4 by omega) (y / 8)
  rw [BitVec.toNat_append, Nat.shiftLeft_eq, Nat.mul_comm, toNat_tileCoordinate hx, toNat_tileCoordinate hy, ← this,
    BitVec.toNat_ofNat]
  omega

/-- R346: the place in its tile of a row or column. -/
theorem placeInTile (x : Nat) : (BitVec.ofNat 7 x).extractLsb' 0 3 = BitVec.ofNat 3 (x % 8) := by
  apply BitVec.eq_of_toNat_eq
  simp [BitVec.extractLsb'_toNat]

/-- Settles O57: the two planes give a tile's pixel (`toNat_bitPair`), a colour is the byte at a palette address
(`setWidth_paletteAddress`), and the image's pixels are `getPatternTable_getElem?`. -/
theorem tilesAndColours : Obligations.TilesAndColours := by
  unfold Obligations.TilesAndColours
  intro s palette leftHalf
  refine ⟨fun table t r c => toNat_bitPair _ _, fun index => ?_, fun x y hx hy => ?_, rfl⟩
  · have hlt : (BitVec.ofNat 16 (0x3F00 + 4 * palette.toNat + index.toNat)).toNat < 0x4000 := by
      have := palette.isLt
      have := index.isLt
      rw [BitVec.toNat_ofNat]
      omega
    refine ⟨_, videoRead_ok hlt s, ?_⟩
    rw [setWidth_paletteAddress]
    exact BitVec.toNat_setWidth ..
  · rw [getPatternTable_getElem? palette leftHalf s hx hy]
    simp only [patternPixel, tileNumber hx hy, placeInTile]

end Sys2Proof.Machine

/-! PROOFS. The clock and the host's entry points: what a clock does at a boundary (O42, O43), a countdown (O7, O8), and
Reset and the interrupt lines (O45). -/

namespace Sys2Proof.Machine

/-! ### What a clock does at a boundary -/

/-- R374: a pending NMI is acknowledged, whatever else is pending. -/
theorem cpuClock_nmi {s : State} (h0 : s.cyclesLeft = 0) (hn : s.nmiPending = true) :
    cpuClock s = countDown (.next (acknowledge .nmi s)) := by
  simp only [cpuClock, h0, if_true, atBoundary, State.acceptsNmi, hn]

theorem acceptsIrq_iff (s : State) :
    s.acceptsIrq = true ↔ s.nmiPending = false ∧ s.irqPending = true ∧ s.flag .i = false := by
  simp only [State.acceptsIrq, Bool.and_eq_true, Bool.not_eq_true', and_assoc]

/-- R374: an IRQ is acknowledged where I is clear and no NMI is pending. -/
theorem cpuClock_irq {s : State} (h0 : s.cyclesLeft = 0) (hn : s.nmiPending = false) (hq : s.irqPending = true)
    (hi : s.flag .i = false) : cpuClock s = countDown (.next (acknowledge .irq s)) := by
  have hirq : s.acceptsIrq = true := (acceptsIrq_iff s).2 ⟨hn, hq, hi⟩
  simp only [cpuClock, h0, if_true, atBoundary, State.acceptsNmi, hn, Bool.false_eq_true, if_false, hirq]

/-- R373: an IRQ is not accepted where none is pending or I is set. -/
theorem fetchesNext_of_unaccepted {s : State} (h0 : s.cyclesLeft = 0) (hn : s.nmiPending = false)
    (h : s.irqPending = false ∨ s.flag .i = true) : s.fetchesNext :=
  ⟨h0, hn, Bool.eq_false_iff.2 fun hc => by
    obtain ⟨-, hq, hi⟩ := (acceptsIrq_iff s).1 hc
    rw [hq, hi] at h
    exact h.elim Bool.noConfusion Bool.noConfusion⟩

theorem settleMaskedIrq_hold {s : State} (h : s.launch.irqMasked = .hold) : settleMaskedIrq s = s := by
  rw [settleMaskedIrq, h]

theorem settleMaskedIrq_drop {s : State} (h : s.launch.irqMasked = .drop) (hq : s.irqPending = true)
    (hi : s.flag .i = true) : settleMaskedIrq s = { s with irqPending := false } := by
  simp only [settleMaskedIrq, h, hq, hi, Bool.and_self, if_true]

theorem settleMaskedIrq_none {s : State} (h : s.irqPending = false) : settleMaskedIrq s = s := by
  unfold settleMaskedIrq
  split
  · rfl
  · rw [if_neg (by simp [h])]

/-- Settles O43: with no interrupt accepted the clock fetches (`cpuClock_fetchesNext`), after the masked IRQ is held or
dropped; the other cases are `cpuClock_irq` and `cpuClock_nmi`. -/
theorem maskedInterruptRequest : Obligations.MaskedInterruptRequest := by
  unfold Obligations.MaskedInterruptRequest
  intro s h0 hn
  have hfetch := fun h => cpuClock_fetchesNext s (fetchesNext_of_unaccepted h0 hn h)
  refine ⟨fun hq hi => ⟨fun hp => ?_, fun hp => ?_⟩, fun hq => ?_, cpuClock_irq h0 hn, fun r => cpuClock_nmi⟩
  · rw [hfetch (.inr hi), settleMaskedIrq_hold hp]
  · rw [hfetch (.inr hi), settleMaskedIrq_drop hp hq hi]
  · rw [hfetch (.inl hq), settleMaskedIrq_none hq]

/-- R376: what a clock that acknowledges an interrupt leaves: the exception taken, and 6 of the 7 clocks. -/
theorem acknowledge_spec {kind : InterruptKind} (hkind : kind ≠ .brk) (s : State) :
    ∃ (t : State) (q : Byte), countDown (.next (acknowledge kind s)) = .next t ∧
      getBreak q = 0b10 ∧ (∀ f, getFlag f q = s.flag f) ∧
      StoresBytes [(stackAddress s.sp, hiByte s.pc), (stackAddress (s.sp - 1), loByte s.pc),
        (stackAddress (s.sp - 2), q)] s t ∧
      t.sp = s.sp - 3 ∧ KeepsRegs [.s] s t ∧ t.flag .i = true ∧ KeepsFlags [.i] s t ∧ t.brk = 0b10 ∧
      t.nmiPending = (s.nmiPending && decide (kind ≠ .nmi)) ∧
      t.irqPending = (s.irqPending && decide (kind ≠ .irq)) ∧ KeepsMachine s t ∧ t.cyclesLeft = 6 ∧
      (s.plain kind.vector → s.plain (kind.vector + 1) →
        t.pc = joinBytes (t.stored (kind.vector + 1)) (t.stored kind.vector)) := by
  have hkinds : kind.breakPattern = 0b10 ∧ kind.returnAddress s.pc = s.pc := by
    cases kind with
    | brk => exact absurd rfl hkind
    | irq | nmi => exact ⟨rfl, rfl⟩
  obtain ⟨hstores, hsp, hregs, hp, hmachine, hnmi, hirq⟩ := takeException_spec kind s
  have hpc := takeException_pc kind s
  rw [hkinds.1] at hstores hp
  rw [hkinds.2] at hstores
  have hclock : countDown (.next (acknowledge kind s)) = .next { takeException kind s with cyclesLeft := 6 } := rfl
  generalize takeException kind s = t at *
  obtain ⟨hi, hflags, hbrk⟩ := status_of_setFlag (s := { s with p := setBreak 0b10 s.p }) hp
  obtain ⟨hbrk', hkeep⟩ := status_of_setBreak (s := s) (t := { s with p := setBreak 0b10 s.p }) rfl
  exact ⟨_, setBreak 0b10 s.p, hclock, hbrk', fun f => getFlag_setBreak f _ _, hstores, hsp, hregs, hi,
    fun f hf => (hflags f hf).trans (hkeep f List.not_mem_nil), hbrk.trans hbrk', hnmi, hirq, hmachine, rfl, hpc⟩

/-- Settles O42: the clock acknowledges the kind's interrupt (`cpuClock_nmi`, `cpuClock_irq`), which leaves what
`acknowledge_spec` says. -/
theorem interruptAcknowledge : Obligations.InterruptAcknowledge := by
  unfold Obligations.InterruptAcknowledge
  intro s nmi h0 hpending vector
  cases nmi with
  | true =>
    obtain ⟨t, q, ht, hqb, hqf, hstores, hsp, hregs, hi, hflags, hbrk, hnmi, hirq, hrest⟩ :=
      acknowledge_spec (kind := .nmi) nofun s
    exact ⟨t, q, (cpuClock_nmi h0 hpending).trans ht, hqb, hqf, hstores, hsp, hregs, hi, hflags, hbrk,
      hnmi.trans (Bool.and_false _), hirq.trans (Bool.and_comm _ _), hrest⟩
  | false =>
    obtain ⟨hn, hq, hclear⟩ := hpending
    obtain ⟨t, q, ht, hqb, hqf, hstores, hsp, hregs, hi, hflags, hbrk, hnmi, hirq, hrest⟩ :=
      acknowledge_spec (kind := .irq) nofun s
    exact ⟨t, q, (cpuClock_irq h0 hn hq hclear).trans ht, hqb, hqf, hstores, hsp, hregs, hi, hflags, hbrk,
      hnmi.trans ((Bool.and_true _).trans hn), hirq.trans (Bool.and_false _), hrest⟩

/-! ### The countdown -/

/-- Settles O7: the PPU clocks of the tick leave the countdown (`ppuClocks_eq`), and the CPU clock counts
(`cpuClock_idle`). -/
theorem idleClock : Obligations.IdleClock := by
  unfold Obligations.IdleClock
  intro s n h
  obtain ⟨u, d, hu, -⟩ := ppuClocks_eq 3 { s with frameDone := false }
  exact cpuClock_idle (ppuClocks 3 { s with frameDone := false }) n (by rw [hu]; exact h)

/-- R402: clocks inside a countdown only count. -/
theorem cpuClocks_idle (k : Nat) (s : State) (h : k ≤ s.cyclesLeft) :
    cpuClocks k s = .next { s with cyclesLeft := s.cyclesLeft - k } := by
  induction k generalizing s with
  | zero => rfl
  | succ k ih =>
    obtain ⟨n, hn⟩ : ∃ n, s.cyclesLeft = n + 1 := Nat.exists_eq_add_one.2 (by omega)
    rw [cpuClocks, cpuClock_idle s n hn, hn, Nat.add_sub_add_right]
    exact ih { s with cyclesLeft := n } (show k ≤ n by omega)

/-- R403: `Step()` inside a countdown ends with it. -/
theorem clockUntilBoundary_idle (fuel : Nat) (s : State) (hpos : s.cyclesLeft ≠ 0) (h : s.cyclesLeft ≤ fuel) :
    clockUntilBoundary fuel s = .next { s with cyclesLeft := 0 } := by
  induction fuel generalizing s with
  | zero => exact absurd (Nat.le_zero.1 h) hpos
  | succ fuel ih =>
    obtain ⟨n, hn⟩ := Nat.exists_eq_succ_of_ne_zero hpos
    rw [clockUntilBoundary, cpuClock_idle s n hn]
    cases n with
    | zero => rfl
    | succ n => exact ih { s with cyclesLeft := n + 1 } (Nat.succ_ne_zero n) (show n + 1 ≤ fuel by omega)

/-- R402, R404: the clock at a boundary that fetches executes one instruction of 2 to 8 cycles and counts the first. -/
theorem cpuClock_executes {s : State} (h : s.fetchesNext) :
    ∃ i u v, fetch (settleMaskedIrq s) = .ok (i, u) ∧ exec i u = .next v ∧
      v.cyclesLeft = i.baseCycles + (modeRequestsExtraCycle i u && requestsExtraCycle i u).toNat ∧
      2 ≤ v.cyclesLeft ∧ v.cyclesLeft ≤ 8 ∧ cpuClock s = .next { v with cyclesLeft := v.cyclesLeft - 1 } := by
  obtain ⟨i, u, hf, -⟩ := fetch_next (settleMaskedIrq s)
  obtain ⟨v, hv, -⟩ := exec_next i u
  have hcharge : v.cyclesLeft = _ := exec_charges i u v hv
  have hbase := (baseCycles_range i).1
  refine ⟨i, u, v, hf, hv, hcharge, by omega, exec_cyclesLeft_le i u v hv, ?_⟩
  simp only [cpuClock_fetchesNext s h, fetchAndExecute, hf, hv, countDown]

/-- Settles O8: the first clock executes (`cpuClock_executes`), the others count (`cpuClocks_idle`), and `Step()` ends
with the countdown (`clockUntilBoundary_idle`). -/
theorem instructionOccupiesItsCycles : Obligations.InstructionOccupiesItsCycles := by
  unfold Obligations.InstructionOccupiesItsCycles
  intro s h
  obtain ⟨i, u, v, hf, hv, hcharge, hmin, hmax, hclock⟩ := cpuClock_executes h
  refine ⟨i, u, v, v.cyclesLeft, hf, hv, hcharge, hmin, hmax, fun k hk1 hkn => ?_, ?_⟩
  · obtain ⟨k, rfl⟩ := Nat.exists_eq_add_one.2 hk1
    rw [cpuClocks, hclock]
    refine (cpuClocks_idle k _ (Nat.le_sub_of_add_le hkn)).trans ?_
    simp only [Nat.sub_sub, Nat.add_comm]
  · obtain ⟨h0, -⟩ := h
    have hfirst : v.cyclesLeft - 1 ≠ 0 := by omega
    rw [stepToBoundary, h0, show max 8 0 = 7 + 1 from rfl, clockUntilBoundary, hclock]
    simp only [hfirst, if_false]
    exact clockUntilBoundary_idle 7 { v with cyclesLeft := v.cyclesLeft - 1 } hfirst (by simp only; omega)

/-! ### Reset and the interrupt lines -/

/-- R400: Reset changes the registers, the countdown and the latches, and the count of draws. -/
theorem resetCpu_eq (s : State) :
    ∃ n, resetCpu s = { s with
      a := 0, x := 0, y := 0, sp := 0xFF, p := s.launch.resetP, pc := (readPair 0xFFFC 0xFFFD s).1, cyclesLeft := 0,
      nmiPending := false, irqPending := false, draws := n } := by
  obtain ⟨n, hn⟩ := readPair_state 0xFFFC 0xFFFD s
  refine ⟨n, ?_⟩
  show { (readPair 0xFFFC 0xFFFD s).2 with
    a := 0, x := 0, y := 0, sp := 0xFF, p := (readPair 0xFFFC 0xFFFD s).2.launch.resetP
    pc := (readPair 0xFFFC 0xFFFD s).1, cyclesLeft := 0, nmiPending := false, irqPending := false } = _
  rw [hn]

theorem raiseNmi_of_pending {s : State} (h : s.nmiPending = true) : raiseNmi s = s := by
  rw [raiseNmi, ← h]

theorem raiseIrq_of_pending {s : State} (h : s.irqPending = true) : raiseIrq s = s := by
  rw [raiseIrq, ← h]

/-- R407: the clock at a boundary after `IRQ()`, with no NMI pending. -/
theorem cpuClock_raiseIrq {s : State} (h0 : s.cyclesLeft = 0) (hn : s.nmiPending = false) :
    cpuClock (raiseIrq s) = countDown (if s.flag .i then fetchAndExecute (settleMaskedIrq (raiseIrq s))
      else .next (acknowledge .irq (raiseIrq s))) := by
  cases hi : s.flag .i with
  | true => exact cpuClock_fetchesNext _ (fetchesNext_of_unaccepted (s := raiseIrq s) h0 hn (.inr hi))
  | false => exact cpuClock_irq (s := raiseIrq s) h0 hn rfl hi

/-- Settles O45: Reset is `resetCpu_eq`; after a call of an interrupt line, a countdown goes on (`cpuClock_idle`), and a
boundary takes the request as `cpuClock_nmi` and `cpuClock_raiseIrq` say. -/
theorem hostEntryPoints : Obligations.HostEntryPoints := by
  unfold Obligations.HostEntryPoints
  refine ⟨fun s => ?_, fun s => ⟨⟨rfl, rfl⟩, raiseNmi_of_pending, raiseIrq_of_pending, fun n h =>
    ⟨cpuClock_idle (raiseNmi s) n h, cpuClock_idle (raiseIrq s) n h⟩, fun h0 => ⟨cpuClock_nmi (s := raiseNmi s) h0 rfl,
    cpuClock_raiseIrq h0⟩⟩⟩
  obtain ⟨n, hn⟩ := resetCpu_eq s
  rw [hn]
  exact ⟨rfl, rfl, rfl, rfl, rfl, rfl, rfl, rfl, rfl,
    ⟨stored_congr s _ rfl rfl rfl rfl rfl rfl, rfl, rfl, rfl, rfl, rfl⟩, rfl, rfl, rfl, rfl⟩

end Sys2Proof.Machine
